-- ==== Sys2Proof/Word.lean ====
section
/-! DEFINITION. The words the block works on. Every operand, modulus and result is an unsigned number of 64 bits
(00_scope.md R3). -/
namespace Sys2Proof

/-- One port register, operand, modulus or result: 64 bits, unsigned (R3, R7). -/
abbrev Word := BitVec 64

/-- One byte of the optional byte-addressed bus mapping (R52). -/
abbrev Byte := BitVec 8

end Sys2Proof
end

