-- ==== Sys2Proof/Config.lean ====
section
/-! DEFINITION. What is fixed for the machine (00_scope.md R7) and the values the spec leaves open. -/
namespace Sys2Proof.Config

/-- `W`: the width of every operand, modulus and result (R7, fixed by the source). -/
def wordBits : Nat := 64

/-- `NIDX`: the number of register indices at the port (R7). -/
def numIndices : Nat := 8

/-- `CMD_VERSION`: command-set version 1, opcodes 1 to 4 (R7, R71). -/
def commandSetVersion : Nat := 1

/-- Which 8-byte block of the platform's address space index 0 stands in. OPEN (R7, R56): no rule reads it, so it
has no body. Log entry 11. -/
opaque mmbBlock : Nat

/-- `MMB_BASE`: the byte address of index 0 where a platform maps the port onto a byte-addressed bus, 8-byte
aligned (R7, R56). -/
def mmbBase : Nat := 8 * mmbBlock

/-- FREE VALUE. What a working register holds after a reset is unspecified (10_state.md R32, R30;
93_implementation_defined.md U7): `freeValue width n` is the `n`-th value drawn. It has no body, so nothing constrains
it. Log entry 7. -/
opaque freeValue (width : Nat) : Nat → BitVec width

end Sys2Proof.Config
end

