-- ==== Sys2Proof/Syntax.lean ====
section
/-! DEFINITION. The instructions: one constructor for each of the twenty rows of spec/opcode_table.json.
The four commands have no operand field (their operand registers are fixed, 10_state.md R34); a port write carries its
64-bit DATA; a port read carries nothing (30_encoding.md R70, R75). -/
namespace Sys2Proof

/-- The four commands (format CMDW) and the sixteen port transactions (format PORT). -/
inductive Instr where
  /-- MULMOD, command word 1 (R110): start `(OPA * OPB) mod MOD`. -/
  | mulmod
  /-- POWMOD, command word 2 (R120): start `OPA ^ OPB mod MOD`. -/
  | powmod
  /-- ISQRT, command word 3 (R130): start the integer square root of `OPA`. -/
  | isqrt
  /-- ISPRIME, command word 4 (R140): start the primality test of `OPA`. -/
  | isprime
  /-- `WR OPA, v` (R160). -/
  | wrOpa (v : Word)
  /-- `WR OPB, v` (R160). -/
  | wrOpb (v : Word)
  /-- `WR MOD, v` (R160). -/
  | wrMod (v : Word)
  /-- `WR RES, v`, ignored (R159). -/
  | wrRes (v : Word)
  /-- `WR CMD, v`, the submission of a command word (R152). -/
  | wrCmd (v : Word)
  /-- `WR STATUS, v`, write 1 to clear DONE and ERR (R156). -/
  | wrStatus (v : Word)
  /-- `WR CTRL, v`, the interrupt enables and the soft reset (R157). -/
  | wrCtrl (v : Word)
  /-- `WR R7, v`, ignored (R159, R28). -/
  | wrR7 (v : Word)
  /-- `RD OPA` (R150). -/
  | rdOpa
  /-- `RD OPB` (R150). -/
  | rdOpb
  /-- `RD MOD` (R150). -/
  | rdMod
  /-- `RD RES` (R150). -/
  | rdRes
  /-- `RD CMD`: the last accepted command word (R150, R27). -/
  | rdCmd
  /-- `RD STATUS` (R150, R25). -/
  | rdStatus
  /-- `RD CTRL` (R150, R26). -/
  | rdCtrl
  /-- `RD R7`: returns 0 (R150, R28). -/
  | rdR7
  deriving DecidableEq, Repr

end Sys2Proof
end

