-- ==== Sys2Proof/WellFormed.lean ====
section
/-! DEFINITION. What is well formed. An `Instr` has no ill-formed value: its one operand is a 64-bit word and all 2^64
values are legal (30_encoding.md R76). What can be ill formed is what arrives at the port: a transaction word that is a
read and carries DATA, a clock edge with both strobes, a bus access that is not one aligned 64-bit access. -/
namespace Sys2Proof

/-- Every instruction is well formed: no command has a field and every 64-bit DATA value is legal (R76, R80). -/
def Instr.wellFormed : Instr → Bool
  | .mulmod | .powmod | .isqrt | .isprime => true
  | .wrOpa _ | .wrOpb _ | .wrMod _ | .wrRes _ | .wrCmd _ | .wrStatus _ | .wrCtrl _ | .wrR7 _ => true
  | .rdOpa | .rdOpb | .rdMod | .rdRes | .rdCmd | .rdStatus | .rdCtrl | .rdR7 => true

/-- A PORT word of 68 bits: DATA (bits 63:0) is 0 in a read, that is when WE (bit 67) is 0 (R75). -/
def portWordWellFormed (w : BitVec 68) : Bool :=
  w.getLsbD 67 || w.extractLsb' 0 64 == 0#64

/-- The strobes at a clock edge: `reg_we` and `reg_re` are never both 1 (20_memory.md R51). -/
def strobesWellFormed (we re : Bool) : Bool :=
  !(we && re)

/-- A bus access at byte offset `offset` from `MMB_BASE`, `size` bytes wide, is a transaction only if it is one
naturally aligned 64-bit access to one of the eight registers (R53). -/
def busAccessWellFormed (offset size : Nat) : Bool :=
  size == 8 && offset % 8 == 0 && decide (offset < 64)

end Sys2Proof
end

