-- ==== Sys2Proof/Decode.lean ====
section
/-! DEFINITION. From encoded words to instructions (30_encoding.md R70 to R80), total, each rejected word rejected by
name, and the encoder back, written from the same tables. -/
namespace Sys2Proof

/-- An encoded instruction: a command word of 64 bits (format CMDW, R70) or a transaction word of 68 bits (format PORT,
R75). -/
inductive Encoded where
  | cmdw (w : BitVec 64)
  | port (w : BitVec 68)
  deriving DecidableEq, Repr

/-- Why a word is no instruction. -/
inductive DecodeError where
  /-- A command word with a bit of RSV (63:4) set (R72). -/
  | reservedBits
  /-- A command word with RSV = 0 and OPC 0 or 5 to 15 (R73). -/
  | illegalOpcode
  /-- A transaction word that is a read and whose DATA is not 0 (R75; log entry 10). -/
  | readCarriesData
  deriving DecidableEq, Repr

/-- The four commands, as `decode(word)` of R77 names them. -/
inductive Command where
  | mulmod
  | powmod
  | isqrt
  | isprime
  deriving DecidableEq, Repr

/-- The eight register indices of the port (20_memory.md R56). -/
inductive PortReg where
  | opa
  | opb
  | mod
  | res
  | cmd
  | status
  | ctrl
  | r7
  deriving DecidableEq, Repr

/-! ## Fields -/

/-- OPC, bits 3:0 of a command word (R70). -/
def opcField (w : BitVec 64) : BitVec 4 := w.extractLsb' 0 4

/-- RSV, bits 63:4 of a command word (R70). -/
def rsvField (w : BitVec 64) : BitVec 60 := w.extractLsb' 4 60

/-- WE, bit 67 of a transaction word: true is `RegWrite` (R75). -/
def weField (w : BitVec 68) : Bool := w.getLsbD 67

/-- IDX, bits 66:64 of a transaction word (R75). -/
def idxField (w : BitVec 68) : BitVec 3 := w.extractLsb' 64 3

/-- DATA, bits 63:0 of a transaction word (R75). -/
def dataField (w : BitVec 68) : Word := w.extractLsb' 0 64

/-! ## Command words -/

/-- The opcode of a command (the OPC map, R71). -/
def opcodeOf : Command → BitVec 4
  | .mulmod => 1#4
  | .powmod => 2#4
  | .isqrt => 3#4
  | .isprime => 4#4

/-- The command an opcode selects, if any (R71, R73). -/
def commandOfOpcode (opc : BitVec 4) : Option Command :=
  if opc = 1#4 then some .mulmod
  else if opc = 2#4 then some .powmod
  else if opc = 3#4 then some .isqrt
  else if opc = 4#4 then some .isprime
  else none

/-- The full command word of a command: OPC in bits 3:0, RSV zero (R71). -/
def commandWord (c : Command) : BitVec 64 := (opcodeOf c).setWidth 64

/-- The decode procedure of R77, total on all 2^64 words. -/
def decodeCommand (w : BitVec 64) : Except DecodeError Command :=
  if rsvField w ≠ 0#60 then .error .reservedBits
  else
    match commandOfOpcode (opcField w) with
    | some c => .ok c
    | none => .error .illegalOpcode

/-- The instruction that submits a command. -/
def instrOfCommand : Command → Instr
  | .mulmod => .mulmod
  | .powmod => .powmod
  | .isqrt => .isqrt
  | .isprime => .isprime

/-! ## Transaction words -/

/-- The register of an index (R56). -/
def portRegOfIndex (idx : BitVec 3) : PortReg :=
  if idx = 0#3 then .opa
  else if idx = 1#3 then .opb
  else if idx = 2#3 then .mod
  else if idx = 3#3 then .res
  else if idx = 4#3 then .cmd
  else if idx = 5#3 then .status
  else if idx = 6#3 then .ctrl
  else .r7

/-- The index of a register (R56). -/
def indexOfPortReg : PortReg → BitVec 3
  | .opa => 0#3
  | .opb => 1#3
  | .mod => 2#3
  | .res => 3#3
  | .cmd => 4#3
  | .status => 5#3
  | .ctrl => 6#3
  | .r7 => 7#3

/-- `RegRead` of a register, as an instruction (R78). -/
def readInstr : PortReg → Instr
  | .opa => .rdOpa
  | .opb => .rdOpb
  | .mod => .rdMod
  | .res => .rdRes
  | .cmd => .rdCmd
  | .status => .rdStatus
  | .ctrl => .rdCtrl
  | .r7 => .rdR7

/-- `RegWrite` of a register, as an instruction (R78). -/
def writeInstr (r : PortReg) (v : Word) : Instr :=
  match r with
  | .opa => .wrOpa v
  | .opb => .wrOpb v
  | .mod => .wrMod v
  | .res => .wrRes v
  | .cmd => .wrCmd v
  | .status => .wrStatus v
  | .ctrl => .wrCtrl v
  | .r7 => .wrR7 v

/-- A transaction word: all sixteen headers are accepted (R80); a read whose DATA is not 0 is no word of the format
(R75). -/
def decodePort (w : BitVec 68) : Except DecodeError Instr :=
  if weField w then .ok (writeInstr (portRegOfIndex (idxField w)) (dataField w))
  else if portWordWellFormed w then .ok (readInstr (portRegOfIndex (idxField w)))
  else .error .readCarriesData

/-! ## Both formats -/

/-- Decoding, total on the words of both formats. -/
def decode : Encoded → Except DecodeError Instr
  | .cmdw w =>
    match decodeCommand w with
    | .ok c => .ok (instrOfCommand c)
    | .error e => .error e
  | .port w => decodePort w

/-- The transaction word `{WE, IDX, DATA}` (R75). -/
def portWord (we : Bool) (r : PortReg) (data : Word) : BitVec 68 :=
  BitVec.ofBool we ++ indexOfPortReg r ++ data

/-- The word of an instruction (R71, R78). -/
def encode : Instr → Encoded
  | .mulmod => .cmdw (commandWord .mulmod)
  | .powmod => .cmdw (commandWord .powmod)
  | .isqrt => .cmdw (commandWord .isqrt)
  | .isprime => .cmdw (commandWord .isprime)
  | .wrOpa v => .port (portWord true .opa v)
  | .wrOpb v => .port (portWord true .opb v)
  | .wrMod v => .port (portWord true .mod v)
  | .wrRes v => .port (portWord true .res v)
  | .wrCmd v => .port (portWord true .cmd v)
  | .wrStatus v => .port (portWord true .status v)
  | .wrCtrl v => .port (portWord true .ctrl v)
  | .wrR7 v => .port (portWord true .r7 v)
  | .rdOpa => .port (portWord false .opa 0#64)
  | .rdOpb => .port (portWord false .opb 0#64)
  | .rdMod => .port (portWord false .mod 0#64)
  | .rdRes => .port (portWord false .res 0#64)
  | .rdCmd => .port (portWord false .cmd 0#64)
  | .rdStatus => .port (portWord false .status 0#64)
  | .rdCtrl => .port (portWord false .ctrl 0#64)
  | .rdR7 => .port (portWord false .r7 0#64)

/-! ## The opcode table's numbering -/

/-- The encoded word of `nbits` bits (64: CMDW; 68, or 72 in whole bytes: PORT) whose bits are `w`; none where `w` does
not fit the format or `nbits` is no format's. -/
def encodedOfTable (nbits w : Nat) : Option Encoded :=
  if nbits = 64 then
    if w < 2 ^ 64 then some (.cmdw (BitVec.ofNat 64 w)) else none
  else if nbits = 68 ∨ nbits = 72 then
    if w < 2 ^ 68 then some (.port (BitVec.ofNat 68 w)) else none
  else none

/-- The instruction the decoder reads from the word `w` of `nbits` bits, numbered as spec/opcode_table.json does. -/
def decodeTableWord (nbits w : Nat) : Option Instr :=
  match encodedOfTable nbits w with
  | some e =>
    match decode e with
    | .ok i => some i
    | .error _ => none
  | none => none

end Sys2Proof
end

