-- ==== Sys2Proof/Machine/State.lean ====
section
/-! DEFINITION. The state of the block, whole and as plain data (10_state.md), the events of the environment, and the
reasons a step can stop. INVENTORY.md lists every field with its rule and its reset value. -/
namespace Sys2Proof.Machine

/-! ## STATUS and CTRL -/

/-- The cause of the reject that set ERR (60_exceptions.md R195). Codes 4 to 15 are never produced and have no value
here (log entry 13). -/
inductive Cause where
  /-- Code 0: ERR = 0. -/
  | none
  /-- Code 1, ILLEGAL_CMD. -/
  | illegalCmd
  /-- Code 2, MOD_ZERO. -/
  | modZero
  /-- Code 3, CMD_WHILE_BUSY. -/
  | cmdWhileBusy
  deriving DecidableEq, Repr

/-- The stored fields of STATUS (R25); its reserved bits have no storage. -/
structure Status where
  busy : Bool
  done : Bool
  err : Bool
  cause : Cause
  deriving DecidableEq, Repr

/-- The stored fields of CTRL (R26); SRST and the reserved bits have no storage. -/
structure Ctrl where
  ienDone : Bool
  ienErr : Bool
  deriving DecidableEq, Repr

/-! ## The sequencer -/

/-- Who runs the mulmod micro-program, that is, where its result goes (R111, R121). -/
inductive MulUse where
  /-- The MULMOD command itself. -/
  | command
  /-- POWMOD's multiply, into PR. -/
  | powMultiply
  /-- POWMOD's square, into PB. -/
  | powSquare
  deriving DecidableEq, Repr

/-- Who runs the isqrt micro-program (R131, R141). -/
inductive SqrtUse where
  /-- The ISQRT command itself. -/
  | command
  /-- ISPRIME's trial bound, into LIM. -/
  | primeBound
  deriving DecidableEq, Repr

/-- The micro-position of the sequencer inside RUN: which loop of which micro-program, and the nesting (R23). Hidden
state (R30; log entry 5). -/
inductive MicroPos where
  /-- Accepted; the micro-program of `w.OPC` has not begun. -/
  | load
  /-- The head of the `while K != 0` loop of R111. -/
  | mulLoop (use : MulUse)
  /-- The head of the `while PE != 0` loop of R121. -/
  | powLoop
  /-- Inside a pass of R121, after the multiply: the shift of PE, then the square. -/
  | powShift
  /-- The head of the `while SB != 0` loop of R131. -/
  | sqrtLoop (use : SqrtUse)
  /-- The head of the `while D <= LIM` loop of R141. -/
  | primeLoop
  /-- The micro-program has returned `v`; the next step of the unit is the completion (R154). -/
  | ready (v : Word)
  deriving DecidableEq, Repr

/-- The sequencer state (R23). -/
inductive Seq where
  | idle
  | run (pos : MicroPos)
  deriving DecidableEq, Repr

/-! ## The working registers -/

/-- The working registers of the datapath, each of the width R22 gives it. -/
structure Working where
  a : BitVec 64
  b : BitVec 64
  m : BitVec 64
  opc : BitVec 4
  c : BitVec 64
  acc : BitVec 64
  t : BitVec 64
  k : BitVec 64
  pr : BitVec 64
  pb : BitVec 64
  pe : BitVec 64
  sr : BitVec 64
  sq : BitVec 64
  sb : BitVec 64
  lim : BitVec 32
  d : BitVec 33
  rm : BitVec 65
  deriving DecidableEq, Repr

/-! ## The environment -/

/-- The port's input signals at one rising edge of `clk` (20_memory.md R51, 70_reset_and_hazards.md R220). -/
structure Pins where
  rst : Bool
  regWe : Bool
  regRe : Bool
  regIdx : BitVec 3
  regWdata : Word
  deriving DecidableEq, Repr

/-- One event, host's or unit's. Events are atomic and happen one at a time in a total order (R58). -/
inductive Event where
  /-- The host's next script line, as its encoded word: a transaction (R75), or a command word written to CMD (R70, R78;
  log entry 1). -/
  | word (e : Encoded)
  /-- A word of neither format. -/
  | foreign (nbits w : Nat)
  /-- One rising clock edge, at signal level (R51). -/
  | edge (p : Pins)
  /-- A read of `size` bytes at a byte address of the platform bus (R53). -/
  | busRead (address size : Nat)
  /-- A write of bytes, the one at the lowest address first, at a byte address of the platform bus (R53). -/
  | busWrite (address : Nat) (bytes : List Byte)
  /-- HardReset: `rst` is asserted and released (R220). -/
  | hardReset
  /-- UnitStep: the unit takes its own next step (45_host_control.md R155). -/
  | unitStep
  deriving DecidableEq, Repr

/-! ## The state -/

/-- Everything the spec gives the block, and the model's own `inputs` and `freeCount`. -/
structure State where
  /-- `OPA`, index 0 (R20). -/
  opa : Word
  /-- `OPB`, index 1 (R20). -/
  opb : Word
  /-- `MOD`, index 2 (R20). -/
  modulus : Word
  /-- `RES`, index 3 (R21). -/
  res : Word
  /-- `CMD`, index 4: the last accepted command word (R27). -/
  cmd : Word
  /-- `STATUS`, index 5 (R25). -/
  status : Status
  /-- `CTRL`, index 6 (R26). -/
  ctrl : Ctrl
  /-- The sequencer (R23). -/
  seq : Seq
  /-- The working registers (R22). -/
  w : Working
  /-- `reg_rdata`: what the last read transaction returned (R51; log entry 8). -/
  rdata : Word
  /-- The model's own: the events still to come, the next first (log entry 2). -/
  inputs : List Event
  /-- The model's own: how many free values have been drawn (log entry 7). -/
  freeCount : Nat
  deriving DecidableEq, Repr

/-- Every working register 0. DESIGN CHOICE: the spec leaves them unspecified after reset (R32). Log entry 6, unsafe. -/
def Working.reset : Working where
  a := 0#64
  b := 0#64
  m := 0#64
  opc := 0#4
  c := 0#64
  acc := 0#64
  t := 0#64
  k := 0#64
  pr := 0#64
  pb := 0#64
  pe := 0#64
  sr := 0#64
  sq := 0#64
  sb := 0#64
  lim := 0#32
  d := 0#33
  rm := 0#65

/-- The block right after reset (R32, R220). The values of `w`, `rdata`, `inputs` and `freeCount` are the model's: log
entries 6, 8, 15, 7. -/
def State.reset : State where
  opa := 0#64
  opb := 0#64
  modulus := 0#64
  res := 0#64
  cmd := 0#64
  status := { busy := false, done := false, err := false, cause := .none }
  ctrl := { ienDone := false, ienErr := false }
  seq := .idle
  w := Working.reset
  rdata := 0#64
  inputs := []
  freeCount := 0

/-! ## Why a step can stop -/

/-- The block itself has no fault that stops it: its one exception, the reject, is a next state (R190, R193). These two
stop a step only in states no run reaches. Log entry 16. -/
inductive Fault where
  /-- Raised by the unit's first step of an operation when `w.OPC` is none of 1, 2, 3, 4: no micro-program exists for
  it (R33 (e), R154). Safe: no run reaches such a state. -/
  | noMicroProgram
  /-- Raised by a step of the unit that would evaluate a remainder by 0: the spec says it is never evaluated (R97, R100).
  Safe: no run reaches such a state. -/
  | remainderByZero
  deriving DecidableEq, Repr

/-- Why an input has no meaning. -/
inductive Refusal where
  /-- Raised by `exec` for an instruction that has no meaning yet. Safe. -/
  | notModelled (mnemonic : String)
  /-- Raised for a transaction word that is a read and carries DATA: no word of the format (R75; log entry 10). Safe. -/
  | readCarriesData
  /-- Raised for a word of neither format (R70, R75; log entry 18). Safe. -/
  | unknownFormat
  /-- Raised at a clock edge with `reg_we` and `reg_re` both 1: no transaction (R51, 93_implementation_defined.md U18).
  Safe. -/
  | bothStrobes
  /-- Raised for a bus access that is not one aligned 64-bit access to a register of the block (R53, U11). Safe. -/
  | notATransaction
  deriving DecidableEq, Repr

/-- The outcome of one step. -/
abbrev Result := Host.Outcome State Fault Refusal

end Sys2Proof.Machine
end

