-- ==== Sys2Proof/Machine/Flags.lean ====
section
/-! DEFINITION. The flags: the words STATUS and CTRL read as, the interrupt output, clearing (10_state.md R25, R26, R29;
45_host_control.md R150, R156). No command writes a flag by its arithmetic (R25). -/
namespace Sys2Proof.Machine

/-- The code of a cause (R195). -/
def causeCode : Cause → BitVec 4
  | .none => 0#4
  | .illegalCmd => 1#4
  | .modZero => 2#4
  | .cmdWhileBusy => 3#4

/-- What a read of STATUS returns: `zext_64({CAUSE, 0, ERR, DONE, BUSY})` (R150). -/
def statusWord (st : Status) : Word :=
  (causeCode st.cause ++ 0#1 ++ BitVec.ofBool st.err ++ BitVec.ofBool st.done ++ BitVec.ofBool st.busy).setWidth 64

/-- What a read of CTRL returns: `zext_64({IEN_ERR, IEN_DONE})`; SRST and the reserved bits read 0 (R150, R26). -/
def ctrlWord (c : Ctrl) : Word :=
  (BitVec.ofBool c.ienErr ++ BitVec.ofBool c.ienDone).setWidth 64

/-- The interrupt output, a level with no memory of its own (R29, 60_exceptions.md R198). -/
def irq (s : State) : Bool :=
  (s.status.done && s.ctrl.ienDone) || (s.status.err && s.ctrl.ienErr)

/-- Write 1 to clear on DONE (bit 1) and ERR (bit 2, with CAUSE); every other bit is ignored (R156). -/
def clearFlags (v : Word) (st : Status) : Status :=
  { busy := st.busy
    done := if v.getLsbD 1 then false else st.done
    err := if v.getLsbD 2 then false else st.err
    cause := if v.getLsbD 2 then .none else st.cause }

/-- The flags after a reject with cause `c`: ERR and CAUSE, nothing else (R193). -/
def rejectFlags (c : Cause) (st : Status) : Status :=
  { st with err := true, cause := c }

/-- The flags after an acceptance: DONE falls, BUSY rises (R153). -/
def acceptFlags (st : Status) : Status :=
  { st with busy := true, done := false }

/-- The flags after a completion: BUSY falls, DONE rises; ERR and CAUSE stay (R154). -/
def completeFlags (st : Status) : Status :=
  { st with busy := false, done := true }

end Sys2Proof.Machine
end

