-- ==== Sys2Proof/Machine/Operands.lean ====
section
/-! DEFINITION. Where operands come from: the operand registers a command takes at acceptance (10_state.md R34,
45_host_control.md R153), the register a port index names (R150), and the bytes of the bus mapping (20_memory.md R52,
R53). -/
namespace Sys2Proof.Machine

/-- The value a read of a port register returns (R150). -/
def regRead (r : PortReg) (s : State) : Word :=
  match r with
  | .opa => s.opa
  | .opb => s.opb
  | .mod => s.modulus
  | .res => s.res
  | .cmd => s.cmd
  | .status => statusWord s.status
  | .ctrl => ctrlWord s.ctrl
  | .r7 => 0#64

/-- Whether a command needs `MOD` not 0 (R34, R191). -/
def needsModulus : Command → Bool
  | .mulmod => true
  | .powmod => true
  | .isqrt => false
  | .isprime => false

/-- The operand snapshot: `w.A`, `w.B`, `w.M` from OPA, OPB, MOD, and `w.OPC` from bits 3:0 of the word (R153). -/
def snapshot (v : Word) (s : State) : Working :=
  { s.w with a := s.opa, b := s.opb, m := s.modulus, opc := opcField v }

/-- The number whose bytes, lowest address first, are the list: little-endian (R52). -/
def littleEndian : List Byte → Nat
  | [] => 0
  | x :: xs => x.toNat + 256 * littleEndian xs

/-- The byte at offset `j` of a register's value: bits `8j + 7 : 8j` (R52). -/
def byteAt (v : Word) (j : Nat) : Byte := v.extractLsb' (8 * j) 8

/-- The eight bytes of a register's value, lowest address first (R52). -/
def bytesOf (v : Word) : List Byte := (List.range 8).map (byteAt v)

/-- The register a bus access of `size` bytes at byte address `address` is a transaction of; none where the access is no
transaction (R53). -/
def busRegister (address size : Nat) : Option PortReg :=
  if Config.mmbBase ≤ address ∧ busAccessWellFormed (address - Config.mmbBase) size = true then
    some (portRegOfIndex (BitVec.ofNat 3 ((address - Config.mmbBase) / 8)))
  else none

end Sys2Proof.Machine
end

