-- ==== Sys2Proof/Machine/Ops.lean ====
section
/-! DEFINITION. The shared operations on the state: returning a read, storing an operand, the reject (the block's one
exception) and the return from it, command submission and acceptance, completion, the control writes and reset
(45_host_control.md R150 to R160; 60_exceptions.md R190 to R203; 70_reset_and_hazards.md R220, R221). -/
namespace Sys2Proof.Machine

/-! ## Reads -/

/-- A read transaction: its value appears on `reg_rdata`; the block's own state does not change (R150, R55). -/
def returnRead (v : Word) (s : State) : State := { s with rdata := v }

/-! ## The reject and the return from it -/

/-- `raise Reject(c)`, taking the exception: ERR and CAUSE, nothing saved, nothing else changed (R193). -/
def reject (c : Cause) (s : State) : State := { s with status := rejectFlags c s.status }

/-- `ClearFlags(v)`, a write of STATUS: the return from a fault (bit 2) and the clearing of DONE (bit 1) (R156, R201). -/
def writeStatus (v : Word) (s : State) : State := { s with status := clearFlags v s.status }

/-! ## Submission, acceptance, completion -/

/-- `Accept(v)`: the operand snapshot, the command register, DONE falls, BUSY rises, the sequencer runs, all at once
(R153). -/
def accept (v : Word) (s : State) : State :=
  { s with w := snapshot v s, cmd := v, status := acceptFlags s.status, seq := .run .load }

/-- `SubmitCommand(v)`: the checks in their order, the first that fails decides (R152, R196). -/
def submitCommand (v : Word) (s : State) : State :=
  if s.status.err then s
  else if s.status.busy then reject .cmdWhileBusy s
  else
    match decodeCommand v with
    | .error _ => reject .illegalCmd s
    | .ok c => if needsModulus c && s.modulus == 0#64 then reject .modZero s else accept v s

/-- `Complete`: RES, BUSY and seq, DONE, in one atomic event (R154). `v` is what the micro-program returned. -/
def complete (v : Word) (s : State) : State :=
  { s with res := v, status := completeFlags s.status, seq := .idle }

/-! ## Reset -/

/-- The working registers after a reset that happens in a run: unspecified, so free values (R32, U7; log entry 7). -/
def freeWorking (n : Nat) : Working where
  a := Config.freeValue 64 n
  b := Config.freeValue 64 (n + 1)
  m := Config.freeValue 64 (n + 2)
  opc := Config.freeValue 4 (n + 3)
  c := Config.freeValue 64 (n + 4)
  acc := Config.freeValue 64 (n + 5)
  t := Config.freeValue 64 (n + 6)
  k := Config.freeValue 64 (n + 7)
  pr := Config.freeValue 64 (n + 8)
  pb := Config.freeValue 64 (n + 9)
  pe := Config.freeValue 64 (n + 10)
  sr := Config.freeValue 64 (n + 11)
  sq := Config.freeValue 64 (n + 12)
  sb := Config.freeValue 64 (n + 13)
  lim := Config.freeValue 32 (n + 14)
  d := Config.freeValue 33 (n + 15)
  rm := Config.freeValue 65 (n + 16)

/-- The effect of a reset, hard or soft: there is one reset state, not two (R158, R220, R221, R223). What the last read
returned and what the environment still brings are not the block's and stay (log entries 8, 2). -/
def resetBlock (s : State) : State :=
  { State.reset with
    w := freeWorking s.freeCount
    rdata := s.rdata
    inputs := s.inputs
    freeCount := s.freeCount + 17 }

/-- `WriteCtrl(v)`: bit 2 is the soft reset, and bits 1:0 are then discarded; otherwise they are the enables (R157,
R158). -/
def writeCtrl (v : Word) (s : State) : State :=
  if v.getLsbD 2 then resetBlock s
  else { s with ctrl := { ienDone := v.getLsbD 0, ienErr := v.getLsbD 1 } }

/-! ## The sequencer -/

/-- A micro-step: the working registers and the micro-position change, nothing a port read can return (R155). -/
def microStep (w : Working) (pos : MicroPos) (s : State) : State := { s with w := w, seq := .run pos }

end Sys2Proof.Machine
end

