-- ==== Sys2Proof/Machine/PortRead.lean ====
section
/-! DEFINITION. The eight reads of the port (45_host_control.md R150). No read faults, and a read is allowed in every
state. -/
namespace Sys2Proof.Machine

/-- `RD OPA` (R150). -/
def execRdOpa (s : State) : Result := .next (returnRead (regRead .opa s) s)

/-- `RD OPB` (R150). -/
def execRdOpb (s : State) : Result := .next (returnRead (regRead .opb s) s)

/-- `RD MOD` (R150). -/
def execRdMod (s : State) : Result := .next (returnRead (regRead .mod s) s)

/-- `RD RES` (R150). While BUSY it still returns the previous result (R21, R227). -/
def execRdRes (s : State) : Result := .next (returnRead (regRead .res s) s)

/-- `RD CMD`: the last accepted command word (R150, R27). -/
def execRdCmd (s : State) : Result := .next (returnRead (regRead .cmd s) s)

/-- `RD STATUS` (R150, R25). -/
def execRdStatus (s : State) : Result := .next (returnRead (regRead .status s) s)

/-- `RD CTRL` (R150, R26). -/
def execRdCtrl (s : State) : Result := .next (returnRead (regRead .ctrl s) s)

/-- `RD R7`: 0 (R150, R28; log entry 9). -/
def execRdR7 (s : State) : Result := .next (returnRead (regRead .r7 s) s)

end Sys2Proof.Machine
end

