-- ==== Sys2Proof/Machine/PortWrite.lean ====
section
/-! DEFINITION. The eight writes of the port (45_host_control.md R151). No write is refused by the port and none stalls. -/
namespace Sys2Proof.Machine

/-- `WR OPA, v`: all 64 bits stored, nothing else (R160). -/
def execWrOpa (v : Word) (s : State) : Result := .next { s with opa := v }

/-- `WR OPB, v`: all 64 bits stored, nothing else (R160). -/
def execWrOpb (v : Word) (s : State) : Result := .next { s with opb := v }

/-- `WR MOD, v`: all 64 bits stored, nothing else; 0 is legal (R160). -/
def execWrMod (v : Word) (s : State) : Result := .next { s with modulus := v }

/-- `WR RES, v`: ignored (R159). -/
def execWrRes (_v : Word) (s : State) : Result := .next s

/-- `WR CMD, v`: `SubmitCommand(v)` (R152). -/
def execWrCmd (v : Word) (s : State) : Result := .next (submitCommand v s)

/-- `WR STATUS, v`: `ClearFlags(v)` (R156). -/
def execWrStatus (v : Word) (s : State) : Result := .next (writeStatus v s)

/-- `WR CTRL, v`: `WriteCtrl(v)` (R157, R158). -/
def execWrCtrl (v : Word) (s : State) : Result := .next (writeCtrl v s)

/-- `WR R7, v`: ignored (R159, R28; log entry 9). -/
def execWrR7 (_v : Word) (s : State) : Result := .next s

end Sys2Proof.Machine
end

