-- ==== Sys2Proof/Machine/Isqrt.lean ====
section
/-! DEFINITION. ISQRT, the integer square root (43_isqrt.md): its submission, and the digit recurrence R131, one load, pass
or exit a step. ISPRIME runs the same micro-program for its trial bound. -/
namespace Sys2Proof.Machine

/-- ISQRT: its command word, 3, is submitted (R130, R152). The root is the unit's work: `isqrtStart` onwards. -/
def execIsqrt (s : State) : Result := .next (submitCommand (commandWord .isqrt) s)

/-- The load of R131: SR the argument, SQ 0, SB the highest power of four that fits. -/
def isqrtLoad (x : Word) (w : Working) : Working :=
  { w with sr := x, sq := 0#64, sb := BitVec.ofNat 64 (2 ^ 62) }

/-- One pass of the loop of R131: one bit of the root, from the top. -/
def isqrtPass (w : Working) : Working :=
  if w.sq.toNat + w.sb.toNat ≤ w.sr.toNat then
    { w with
      sr := w.sr - (w.sq + w.sb)
      sq := (w.sq >>> 1) + w.sb
      sb := w.sb >>> 2 }
  else
    { w with
      sq := w.sq >>> 1
      sb := w.sb >>> 2 }

/-- `return w.SQ`: to the ISQRT command, or as ISPRIME's bound LIM, with the first trial divisor, 3 (R131, R141). -/
def isqrtReturn (use : SqrtUse) (s : State) : State :=
  match use with
  | .command => microStep s.w (.ready s.w.sq) s
  | .primeBound => microStep { s.w with lim := s.w.sq.setWidth 32, d := 3#33 } .primeLoop s

/-- Enter the micro-program R131 on `x`. -/
def isqrtEnter (use : SqrtUse) (x : Word) (s : State) : Result :=
  .next (microStep (isqrtLoad x s.w) (.sqrtLoop use) s)

/-- At the head of the loop of R131: a pass while SB is not 0, else the return. -/
def isqrtLoopStep (use : SqrtUse) (s : State) : Result :=
  if s.w.sb = 0#64 then .next (isqrtReturn use s)
  else .next (microStep (isqrtPass s.w) (.sqrtLoop use) s)

/-- The first step of an ISQRT operation: the load, on the snapshot (R130). -/
def isqrtStart (s : State) : Result := isqrtEnter .command s.w.a s

end Sys2Proof.Machine
end

