-- ==== Sys2Proof/Machine/Primitives.lean ====
section
/-! DEFINITION. The datapath primitives (40_datapath_primitives.md), on mathematical naturals as 00_scope.md R8 writes
them: `+`, `-` and `*` never wrap by themselves, every wrap is written out. None reads or writes state (R11). -/
namespace Sys2Proof.Machine

/-- `wrap64(v) = v mod 2^64` (R8). -/
def wrap64 (v : Nat) : Nat := v % 2 ^ 64

/-- `carry64(s, t)`: 1 exactly when the true sum is 2^64 or more (R8, R92). -/
def carry64 (s t : Nat) : Nat := if 2 ^ 64 ≤ s + t then 1 else 0

/-- `neg64(m) = (2^64 - m) mod 2^64`, the document's `0 - mod` (R8). -/
def neg64 (m : Nat) : Nat := (2 ^ 64 - m) % 2 ^ 64

/-- `rem(x, d)`, the exact least non-negative remainder (R97). -/
def rem (x d : Nat) : Nat := x % d

/-- `wrapc(m)`, the compensation constant `(0 - mod) % mod` (R90). -/
def wrapc (m : Nat) : Nat := rem (neg64 m) m

/-- The 64-bit adder with carry-out: sum and carry (R91). -/
def add64 (s t : Nat) : Nat × Nat := (wrap64 (s + t), carry64 s t)

/-- The compensated addition with the constant `c` at hand, as a mulmod has it in `w.C`: add; where the addition
wrapped, add `c`; then reduce (R93). -/
def addmodWith (c s t m : Nat) : Nat :=
  let u := add64 s t
  rem (if u.2 = 1 then wrap64 (u.1 + c) else u.1) m

/-- `addmod(s, t, m)` (R93). -/
def addmod (s t m : Nat) : Nat := addmodWith (wrapc m) s t m

/-- `dblmod(t, m) = addmod(t, t, m)` (R95). -/
def dblmod (t m : Nat) : Nat := addmod t t m

/-- One iteration of the restoring divider: shift a bit of the dividend in, subtract the divisor where it fits (R98). -/
def restoringStep (d : Nat) (bit : Bool) (rm : Nat) : Nat :=
  let r := 2 * rm + bit.toNat
  if d ≤ r then r - d else r

/-- The iterations for the bits `i - 1` down to 0 of `x` (R98). -/
def restoringLoop (x d : Nat) : Nat → Nat → Nat
  | 0, rm => rm
  | i + 1, rm => restoringLoop x d i (restoringStep d (x.testBit i) rm)

/-- The nominal circuit of `rem` for a 64-bit `x`: 64 iterations, quotient discarded (R98). -/
def remRestoring (x d : Nat) : Nat := restoringLoop x d 64 0

/-- `bitlen(v)`: 0 for 0, otherwise the least `n` with `v < 2^n` (R11). -/
def bitlen (v : Nat) : Nat := if v = 0 then 0 else Nat.log2 v + 1

end Sys2Proof.Machine
end

