-- ==== Sys2Proof/Machine/Isprime.lean ====
section
/-! DEFINITION. ISPRIME, the trial-division primality test (44_isprime.md): its submission, and the micro-program R141. -/
namespace Sys2Proof.Machine

/-- ISPRIME: its command word, 4, is submitted (R140, R152). The test is the unit's work: `isprimeStart` onwards. -/
def execIsprime (s : State) : Result := .next (submitCommand (commandWord .isprime) s)

/-- The first step of an ISPRIME operation: 0 and 1 are not prime, 2 is, every other even number is not; an odd number
goes on to its bound (R141). -/
def isprimeStart (s : State) : Result :=
  if s.w.a.toNat < 2 then .next (microStep s.w (.ready 0#64) s)
  else if s.w.a = 2#64 then .next (microStep s.w (.ready 1#64) s)
  else if s.w.a.getLsbD 0 then isqrtEnter .primeBound s.w.a s
  else .next (microStep s.w (.ready 0#64) s)

/-- The remainder of the argument by the trial divisor, left in RM (R141, R98). -/
def isprimeDivide (w : Working) : Working :=
  { w with rm := BitVec.ofNat 65 (rem w.a.toNat w.d.toNat) }

/-- The next odd trial divisor (R141). -/
def isprimeNext (w : Working) : Working := { w with d := w.d + 2#33 }

/-- At the head of the loop of R141: 1 once D is past the bound; else 0 where D divides, or the next D. -/
def isprimeLoopStep (s : State) : Result :=
  if s.w.lim.toNat < s.w.d.toNat then .next (microStep s.w (.ready 1#64) s)
  else if s.w.d = 0#33 then .fault .remainderByZero
  else
    let w := isprimeDivide s.w
    if w.rm = 0#65 then .next (microStep w (.ready 0#64) s)
    else .next (microStep (isprimeNext w) .primeLoop s)

end Sys2Proof.Machine
end

