-- ==== Sys2Proof/Machine/Mulmod.lean ====
section
/-! DEFINITION. MULMOD, the modular multiplier (41_mulmod.md): its submission, and the micro-program R111 that the unit
runs, one load, pass or exit a step (log entry 4). POWMOD runs the same micro-program on the same registers. -/
namespace Sys2Proof.Machine

/-- MULMOD: its command word, 1, is submitted (R110, R152). The product is the unit's work: `mulmodStart` onwards. -/
def execMulmod (s : State) : Result := .next (submitCommand (commandWord .mulmod) s)

/-- The load of R111 on operands `a` and `b`: the smaller operand to K, the other reduced to T, the compensation constant
to C, the running sum 0. RM ends with the last remainder taken, the one in `wrapc`. -/
def mulmodLoad (a b m : Word) (w : Working) : Working :=
  { w with
    k := BitVec.ofNat 64 (min a.toNat b.toNat)
    t := BitVec.ofNat 64 (rem (max a.toNat b.toNat) m.toNat)
    c := BitVec.ofNat 64 (wrapc m.toNat)
    acc := 0#64
    rm := BitVec.ofNat 65 (wrapc m.toNat) }

/-- "Conditionally accumulating": ACC takes T where the lowest bit of K is 1 (R111). -/
def mulmodAccumulate (m : Word) (w : Working) : Working :=
  if w.k.getLsbD 0 then
    let sum := addmodWith w.c.toNat w.acc.toNat w.t.toNat m.toNat
    { w with acc := BitVec.ofNat 64 sum, rm := BitVec.ofNat 65 sum }
  else w

/-- K moves right by one (R111). -/
def mulmodShift (w : Working) : Working := { w with k := w.k >>> 1 }

/-- "Doubling that operand": T doubles unless no bit of K is left (R111). -/
def mulmodDouble (m : Word) (w : Working) : Working :=
  if w.k = 0#64 then w
  else
    let twice := addmodWith w.c.toNat w.t.toNat w.t.toNat m.toNat
    { w with t := BitVec.ofNat 64 twice, rm := BitVec.ofNat 65 twice }

/-- One pass of the loop of R111. -/
def mulmodPass (m : Word) (w : Working) : Working :=
  mulmodDouble m (mulmodShift (mulmodAccumulate m w))

/-- `return w.ACC`: to the MULMOD command, or to the step of POWMOD that runs it (R111, R121). -/
def mulmodReturn (use : MulUse) (s : State) : State :=
  match use with
  | .command => microStep s.w (.ready s.w.acc) s
  | .powMultiply => microStep { s.w with pr := s.w.acc } .powShift s
  | .powSquare => microStep { s.w with pb := s.w.acc } .powLoop s

/-- Enter the micro-program R111 on operands `a` and `b` modulo `w.M`. -/
def mulmodEnter (use : MulUse) (a b : Word) (s : State) : Result :=
  if s.w.m = 0#64 then .fault .remainderByZero
  else .next (microStep (mulmodLoad a b s.w.m s.w) (.mulLoop use) s)

/-- At the head of the loop of R111: a pass while K is not 0, else the return. -/
def mulmodLoopStep (use : MulUse) (s : State) : Result :=
  if s.w.k = 0#64 then .next (mulmodReturn use s)
  else if s.w.m = 0#64 then .fault .remainderByZero
  else .next (microStep (mulmodPass s.w.m s.w) (.mulLoop use) s)

/-- The first step of a MULMOD operation: the load, on the snapshot (R110). -/
def mulmodStart (s : State) : Result := mulmodEnter .command s.w.a s.w.b s

end Sys2Proof.Machine
end

