-- ==== Sys2Proof/Machine/Powmod.lean ====
section
/-! DEFINITION. POWMOD, the modular exponentiation engine (42_powmod.md): its submission, and the micro-program R121,
whose multiply and square are whole runs of R111. -/
namespace Sys2Proof.Machine

/-- POWMOD: its command word, 2, is submitted (R120, R152). The power is the unit's work: `powmodStart` onwards. -/
def execPowmod (s : State) : Result := .next (submitCommand (commandWord .powmod) s)

/-- The first step of a POWMOD operation: PR takes an unreduced 1, PB the base, PE the exponent (R121). -/
def powmodStart (s : State) : Result :=
  .next (microStep { s.w with pr := 1#64, pb := s.w.a, pe := s.w.b } .powLoop s)

/-- At the head of the loop of R121: the return of PR when PE is 0, else the multiply where the lowest bit of PE is 1. -/
def powmodLoopStep (s : State) : Result :=
  if s.w.pe = 0#64 then .next (microStep s.w (.ready s.w.pr) s)
  else if s.w.pe.getLsbD 0 then mulmodEnter .powMultiply s.w.pr s.w.pb s
  else .next (microStep s.w .powShift s)

/-- PE moves right by one (R121). -/
def powmodShift (w : Working) : Working := { w with pe := w.pe >>> 1 }

/-- After the multiply: PE moves right; the square follows unless no bit of PE is left (R121). -/
def powmodShiftStep (s : State) : Result :=
  let s' := microStep (powmodShift s.w) .powLoop s
  if s'.w.pe = 0#64 then .next s'
  else mulmodEnter .powSquare s'.w.pb s'.w.pb s'

end Sys2Proof.Machine
end

