-- ==== Sys2Proof/Machine/Unit.lean ====
section
/-! DEFINITION. UnitStep, the unit's own event (45_host_control.md R154, R155): a micro-step of the running operation, or
its completion. -/
namespace Sys2Proof.Machine

/-- The first micro-step of an operation: the micro-program of `w.OPC` (R71, R154). -/
def startOperation (s : State) : Result :=
  match commandOfOpcode s.w.opc with
  | some .mulmod => mulmodStart s
  | some .powmod => powmodStart s
  | some .isqrt => isqrtStart s
  | some .isprime => isprimeStart s
  | none => .fault .noMicroProgram

/-- One UnitStep. It is enabled exactly when seq = RUN; where it is not enabled nothing happens (R155; log entry 3). -/
def unitStep (s : State) : Result :=
  match s.seq with
  | .idle => .next s
  | .run .load => startOperation s
  | .run (.mulLoop use) => mulmodLoopStep use s
  | .run .powLoop => powmodLoopStep s
  | .run .powShift => powmodShiftStep s
  | .run (.sqrtLoop use) => isqrtLoopStep use s
  | .run .primeLoop => isprimeLoopStep s
  | .run (.ready v) => .next (complete v s)

end Sys2Proof.Machine
end

