-- ==== Sys2Proof/Machine/Dispatch.lean ====
section
/-! DEFINITION. One arm for each constructor of Instr. -/
namespace Sys2Proof.Machine

def exec (i : Instr) (s : State) : Host.Outcome State Fault Refusal :=
  match i with
  | .mulmod => Sys2Proof.Machine.execMulmod s
  | .powmod => Sys2Proof.Machine.execPowmod s
  | .isqrt => Sys2Proof.Machine.execIsqrt s
  | .isprime => Sys2Proof.Machine.execIsprime s
  | .wrOpa v => Sys2Proof.Machine.execWrOpa v s
  | .wrOpb v => Sys2Proof.Machine.execWrOpb v s
  | .wrMod v => Sys2Proof.Machine.execWrMod v s
  | .wrRes v => Sys2Proof.Machine.execWrRes v s
  | .wrCmd v => Sys2Proof.Machine.execWrCmd v s
  | .wrStatus v => Sys2Proof.Machine.execWrStatus v s
  | .wrCtrl v => Sys2Proof.Machine.execWrCtrl v s
  | .wrR7 v => Sys2Proof.Machine.execWrR7 v s
  | .rdOpa => Sys2Proof.Machine.execRdOpa s
  | .rdOpb => Sys2Proof.Machine.execRdOpb s
  | .rdMod => Sys2Proof.Machine.execRdMod s
  | .rdRes => Sys2Proof.Machine.execRdRes s
  | .rdCmd => Sys2Proof.Machine.execRdCmd s
  | .rdStatus => Sys2Proof.Machine.execRdStatus s
  | .rdCtrl => Sys2Proof.Machine.execRdCtrl s
  | .rdR7 => Sys2Proof.Machine.execRdR7 s

end Sys2Proof.Machine
end

