-- ==== Sys2Proof/Machine/Events.lean ====
section
/-! DEFINITION. What one event does (45_host_control.md, 20_memory.md R51 to R53, 70_reset_and_hazards.md R220). -/
namespace Sys2Proof.Machine

/-- What an event comes to at the block. -/
inductive Action where
  /-- The instruction runs: a port transaction or the submission of a command. -/
  | transaction (i : Instr)
  /-- The block is reset (R220). -/
  | reset
  /-- The unit takes its own step (R155). -/
  | unit
  /-- Nothing happens. -/
  | nothing
  /-- The event has no meaning. -/
  | refuse (r : Refusal)
  deriving DecidableEq, Repr

/-- A script line: the decoded instruction. A command word that decodes to no command is still a write of CMD, and takes
the reject (R73, R192); a transaction word that does not decode is refused (R75). -/
def wordAction (e : Encoded) : Action :=
  match decode e with
  | .ok i => .transaction i
  | .error _ =>
    match e with
    | .cmdw w => .transaction (writeInstr .cmd w)
    | .port _ => .refuse .readCarriesData

/-- A rising edge of `clk`: under `rst` the block is in reset and any transaction is ignored (R220, U17); both strobes
are refused (R51, U18); with neither there is no transaction. -/
def edgeAction (p : Pins) : Action :=
  if p.rst then .reset
  else if !strobesWellFormed p.regWe p.regRe then .refuse .bothStrobes
  else if p.regWe then .transaction (writeInstr (portRegOfIndex p.regIdx) p.regWdata)
  else if p.regRe then .transaction (readInstr (portRegOfIndex p.regIdx))
  else .nothing

/-- A bus read: a read transaction where it is one aligned 64-bit access to the block, else refused (R53, U11). -/
def busReadAction (address size : Nat) : Action :=
  match busRegister address size with
  | some r => .transaction (readInstr r)
  | none => .refuse .notATransaction

/-- A bus write: a write transaction of the little-endian value of its bytes where it is one aligned 64-bit access to the
block, else refused (R52, R53, U11). -/
def busWriteAction (address : Nat) (bytes : List Byte) : Action :=
  match busRegister address bytes.length with
  | some r => .transaction (writeInstr r (BitVec.ofNat 64 (littleEndian bytes)))
  | none => .refuse .notATransaction

/-- What each event comes to. -/
def actionOf : Event → Action
  | .word e => wordAction e
  | .foreign _ _ => .refuse .unknownFormat
  | .edge p => edgeAction p
  | .busRead address size => busReadAction address size
  | .busWrite address bytes => busWriteAction address bytes
  | .hardReset => .reset
  | .unitStep => .unit

/-- The effect of one event. -/
def perform (e : Event) (s : State) : Result :=
  match actionOf e with
  | .transaction i => exec i s
  | .reset => .next (resetBlock s)
  | .unit => unitStep s
  | .nothing => .next s
  | .refuse r => .refused r

/-- The events of a list, one after another, stopping at the first that does not answer a next state. -/
def performAll : List Event → State → Result
  | [], s => .next s
  | e :: es, s =>
    match perform e s with
    | .next t => performAll es t
    | .fault r => .fault r
    | .refused r => .refused r

/-- The next event, in the one total order of R58: the first still to come. With none left the host is silent and only the
unit can act: it takes its own step, which while IDLE is no step at all, the block waiting for the host (R155, R220; log
entries 2, 3). -/
def takeNext (s : State) : Result :=
  match s.inputs with
  | [] => unitStep s
  | e :: rest => perform e { s with inputs := rest }

/-- The input an encoded word of the opcode table becomes. -/
def eventOfTable (nbits w : Nat) : Event :=
  match encodedOfTable nbits w with
  | some e => .word e
  | none => .foreign nbits w

/-- The word placed as the next input (log entry 15). -/
def placeNext (nbits w : Nat) (s : State) : State := { s with inputs := eventOfTable nbits w :: s.inputs }

end Sys2Proof.Machine
end

