-- ==== Sys2Proof/Machine/Step.lean ====
section
/-! DEFINITION. One step of the machine: the next event, in the one total order of 20_memory.md R58. -/
namespace Sys2Proof.Machine

/-- One step: the next event happens (R58; log entry 2). -/
def step (s : State) : Host.Outcome State Fault Refusal := takeNext s

/-- `s` with the word `w` of `nbits` bits placed where `step` takes its next instruction. -/
def State.withFetchWord (s : State) (nbits w : Nat) : State := placeNext nbits w s

end Sys2Proof.Machine
end

