-- ==== Sys2Proof/Machine/Script.lean ====
section
/-! DEFINITION. Script notation, and its pseudo-instructions as the lists of events they expand to (30_encoding.md R78, R79). Conveniences of
the spec: the block knows only transactions. -/
namespace Sys2Proof.Machine

/-- `WR <reg>, v` (R78). -/
def wr (r : PortReg) (v : Word) : Event := .word (encode (writeInstr r v))

/-- `RD <reg>` (R78). -/
def rd (r : PortReg) : Event := .word (encode (readInstr r))

/-- `WR CMD, <mnemonic>` (R78). -/
def wrCommand (c : Command) : Event := wr .cmd (commandWord c)

/-- `CLRDONE` (R79). -/
def clrDone : Event := wr .status 2#64

/-- `CLRERR` (R79). -/
def clrErr : Event := wr .status 4#64

/-- `SRST` (R79). -/
def softReset : Event := wr .ctrl 4#64

/-- One turn of `WAIT`: the unit takes `n` steps, then the host reads STATUS (R79, R155). -/
def pollAfter (n : Nat) : List Event := List.replicate n .unitStep ++ [rd .status]

/-- `WAIT`, `repeat s <- RD STATUS until s[0] = 0`, from the state `s`: the events of its turns, the last being the first
whose read returns bit 0 = 0 (R79). How many reads there are depends on the unit; `polls` says how many steps the unit takes
before each read, as long as there is one (R155; log entry 17). With none left while bit 0 is still 1 the host is still
polling, and there is no expansion yet. -/
def wait : List Nat → State → Option (List Event)
  | [], _ => none
  | n :: more, s =>
    match performAll (pollAfter n) s with
    | .next t => if t.rdata.getLsbD 0 then (wait more t).map (fun es => pollAfter n ++ es) else some (pollAfter n)
    | .fault _ | .refused _ => none

/-- What the four call-like forms share: the writes, the last of them the command; `WAIT` from the state they leave; the
read of RES, which `WAIT` puts after the first read of STATUS with bit 0 = 0 (R79). DESIGN CHOICE: the unit takes no step
between the call's own writes, nor before the read of RES, where R13 and R155 let it take any number. Before the read of RES,
and from a state that is idle, that changes nothing; a call begun while BUSY = 1 has its CMD write rejected or, with ERR = 1,
dropped, though the unit could have completed just before that write. Log entry 19, unsafe there. -/
def call (writes : List Event) (polls : List Nat) (s : State) : Option (List Event) :=
  match performAll writes s with
  | .next t => (wait polls t).map (fun es => writes ++ es ++ [rd .res])
  | .fault _ | .refused _ => none

/-- `r <- MULMOD a, b, m` (R79). -/
def callMulmod (a b m : Word) : List Nat → State → Option (List Event) :=
  call [wr .opa a, wr .opb b, wr .mod m, wrCommand .mulmod]

/-- `r <- POWMOD b, e, m` (R79). -/
def callPowmod (b e m : Word) : List Nat → State → Option (List Event) :=
  call [wr .opa b, wr .opb e, wr .mod m, wrCommand .powmod]

/-- `r <- ISQRT x` (R79). -/
def callIsqrt (x : Word) : List Nat → State → Option (List Event) := call [wr .opa x, wrCommand .isqrt]

/-- `r <- ISPRIME x` (R79). -/
def callIsprime (x : Word) : List Nat → State → Option (List Event) := call [wr .opa x, wrCommand .isprime]

end Sys2Proof.Machine
end

