-- ==== Sys2Proof/Safety.lean ====
section
/-! DEFINITION. What counts as a safe run of the block, in the terms claims use: the invariants of 10_state.md R33 and of
the micro-programs (R113, R123, R133, R141), the result laws (R112, R122, R132, R142), a good final state (R19), and the
host events that leave a running operation alone (R162). -/
namespace Sys2Proof.Machine

/-! ## The result laws -/

/-- `x` is a prime number, in the words of R142. -/
def PrimeNumber (x : Nat) : Prop := 2 ≤ x ∧ ∀ d, 2 ≤ d → d < x → ¬ d ∣ x

/-- The law of POWMOD's result: 1 for exponent 0 at every modulus, otherwise the power reduced (R122). -/
def powmodValue (base e m : Nat) : Nat := if e = 0 then 1 else base ^ e % m

/-- `r` is the result of command `c` on the operands `a`, `b`, `m` (R112, R122, R132, R142). -/
def IsResult (c : Command) (a b m r : Nat) : Prop :=
  match c with
  | .mulmod => r = a * b % m
  | .powmod => r = powmodValue a b m
  | .isqrt => r * r ≤ a ∧ a < (r + 1) * (r + 1)
  | .isprime => (PrimeNumber a → r = 1) ∧ (¬ PrimeNumber a → r = 0)

/-! ## Invariants -/

/-- R33: what holds in every reachable state. -/
structure PortInv (s : State) : Prop where
  /-- (a) BUSY = 1 if and only if seq = RUN. -/
  busy_iff_run : s.status.busy = true ↔ s.seq ≠ .idle
  /-- (b) CAUSE = 0 if and only if ERR = 0. -/
  cause_iff_err : s.status.cause = .none ↔ s.status.err = false
  /-- (c) not both BUSY and DONE. -/
  not_busy_and_done : ¬ (s.status.busy = true ∧ s.status.done = true)
  /-- (d) the reserved bits of STATUS and CTRL, and CTRL.SRST, are 0. -/
  reserved : statusWord s.status &&& 0xFFFFFFFFFFFFFF08#64 = 0#64 ∧ ctrlWord s.ctrl &&& 0xFFFFFFFFFFFFFFFC#64 = 0#64
  /-- (e) in RUN, `w.OPC` is a command, and `w.M` is not 0 where the command needs it. -/
  running : s.seq ≠ .idle → ∃ c, commandOfOpcode s.w.opc = some c ∧ (needsModulus c = true → 0 < s.w.m.toNat)
  /-- (f) `CMD` is 0 or a legal command word. -/
  cmd_legal : s.cmd = 0#64 ∨ ∃ c, decodeCommand s.cmd = .ok c

/-- R113: what holds at the head of the loop of the mulmod micro-program on `a` and `b` modulo `m`, after some number `j`
of passes. Where the last doubling was skipped T is one doubling behind and is not read again. -/
def MulmodHead (a b m : Nat) (w : Working) : Prop :=
  0 < m ∧ w.c.toNat = wrapc m ∧ w.acc.toNat < m ∧ w.t.toNat < m ∧
    ∃ j, w.k.toNat = min a b >>> j ∧
      (w.k.toNat ≠ 0 → w.t.toNat = max a b * 2 ^ j % m) ∧
      w.acc.toNat = max a b * (min a b % 2 ^ j) % m

/-- R123: the running square of the base after `j` squarings; before the first it is the base, unreduced. -/
def powmodSquared (base m j : Nat) : Nat := if j = 0 then base else base ^ 2 ^ j % m

/-- R123: what holds at the head of the loop of the powmod micro-program, after some number `j` of passes. -/
def PowmodHead (base e m : Nat) (w : Working) : Prop :=
  ∃ j, w.pe.toNat = e >>> j ∧ (w.pe.toNat ≠ 0 → w.pb.toNat = powmodSquared base m j) ∧
    w.pr.toNat = powmodValue base (e % 2 ^ j) m

/-- R123, inside a pass, after the multiply and before PE moves. -/
def PowmodMultiplied (base e m : Nat) (w : Working) : Prop :=
  ∃ j, w.pe.toNat = e >>> j ∧ w.pe.toNat ≠ 0 ∧ w.pb.toNat = powmodSquared base m j ∧
    w.pr.toNat = powmodValue base (e % 2 ^ (j + 1)) m

/-- R123, inside a pass, after PE has moved and before the square is in PB. -/
def PowmodSquaring (base e m : Nat) (w : Working) : Prop :=
  ∃ j, w.pe.toNat = e >>> (j + 1) ∧ w.pe.toNat ≠ 0 ∧ w.pb.toNat = powmodSquared base m j ∧
    w.pr.toNat = powmodValue base (e % 2 ^ (j + 1)) m

/-- The part of the root of `x` decided when `n` bits are still to come: `(isqrt(x) >> n) << n` (R133). -/
def rootPart (x n : Nat) : Nat := Nat.sqrt x >>> n <<< n

/-- R133: what holds at the head of the loop of the isqrt micro-program on `x`, with `n` passes still to come. -/
def IsqrtHead (x : Nat) (w : Working) : Prop :=
  ∃ n ≤ 32, w.sb.toNat = (if n = 0 then 0 else 4 ^ (n - 1)) ∧
    w.sq.toNat = rootPart x n * 2 ^ n ∧ w.sr.toNat = x - rootPart x n * rootPart x n

/-- R141, R142: what holds at the head of the trial loop on `x`: the bound is the exact root, and no number below the
current odd divisor divides `x`. -/
def IsprimeHead (x : Nat) (w : Working) : Prop :=
  3 ≤ x ∧ x % 2 = 1 ∧ w.lim.toNat = Nat.sqrt x ∧
    3 ≤ w.d.toNat ∧ w.d.toNat % 2 = 1 ∧ w.d.toNat ≤ w.lim.toNat + 2 ∧
    ∀ q, 2 ≤ q → q < w.d.toNat → ¬ q ∣ x

/-- What holds of the working registers when the sequencer stands at a micro-position, running command `c`. -/
def PositionInv (c : Command) (w : Working) : MicroPos → Prop
  | .load => True
  | .mulLoop .command => c = .mulmod ∧ MulmodHead w.a.toNat w.b.toNat w.m.toNat w
  | .mulLoop .powMultiply =>
    c = .powmod ∧ PowmodHead w.a.toNat w.b.toNat w.m.toNat w ∧ w.pe.toNat % 2 = 1 ∧
      MulmodHead w.pr.toNat w.pb.toNat w.m.toNat w
  | .mulLoop .powSquare =>
    c = .powmod ∧ PowmodSquaring w.a.toNat w.b.toNat w.m.toNat w ∧ MulmodHead w.pb.toNat w.pb.toNat w.m.toNat w
  | .powLoop => c = .powmod ∧ PowmodHead w.a.toNat w.b.toNat w.m.toNat w
  | .powShift => c = .powmod ∧ PowmodMultiplied w.a.toNat w.b.toNat w.m.toNat w
  | .sqrtLoop .command => c = .isqrt ∧ IsqrtHead w.a.toNat w
  | .sqrtLoop .primeBound => c = .isprime ∧ 3 ≤ w.a.toNat ∧ w.a.toNat % 2 = 1 ∧ IsqrtHead w.a.toNat w
  | .primeLoop => c = .isprime ∧ IsprimeHead w.a.toNat w
  | .ready v => IsResult c w.a.toNat w.b.toNat w.m.toNat v.toNat

/-- The running operation is on its way to the result its command and snapshot ask for. While IDLE it says nothing. -/
def OperationInv (s : State) : Prop :=
  match s.seq with
  | .idle => True
  | .run pos =>
    ∃ c, commandOfOpcode s.w.opc = some c ∧ (needsModulus c = true → 0 < s.w.m.toNat) ∧ PositionInv c s.w pos

/-- The invariant of the whole machine. -/
def Inv (s : State) : Prop := PortInv s ∧ OperationInv s

/-! ## Reset -/

/-- R32: every piece of state that the table gives a value holds it. Of the working registers it says nothing. -/
def HoldsResetValues (s : State) : Prop :=
  s.opa = 0#64 ∧ s.opb = 0#64 ∧ s.modulus = 0#64 ∧ s.res = 0#64 ∧ s.cmd = 0#64 ∧
    s.status = { busy := false, done := false, err := false, cause := .none } ∧
    s.ctrl = { ienDone := false, ienErr := false } ∧ s.seq = .idle ∧ irq s = false

/-! ## Runs -/

/-- How many steps of the unit an accepted command takes at most, on operands `a` and `b`: the passes of R113, R123, R131
and R144, and the load, the exits and the completion of log entry 4. -/
def passBound (c : Command) (a b : Nat) : Nat :=
  match c with
  | .mulmod => bitlen (min a b) + 3
  | .powmod => 8386
  | .isqrt => 35
  | .isprime => 36 + (Nat.sqrt a - 1) / 2

/-- R19: the script is over, no operation runs and no fault is recorded. -/
def goodFinal (s : State) : Bool := s.inputs.isEmpty && !s.status.busy && !s.status.err

/-- R162: an instruction that is no CMD write, no STATUS write with bit 2, no CTRL write with bit 2. -/
def quietInstr : Instr → Bool
  | .mulmod | .powmod | .isqrt | .isprime => false
  | .wrCmd _ => false
  | .wrStatus v => !v.getLsbD 2
  | .wrCtrl v => !v.getLsbD 2
  | .wrOpa _ | .wrOpb _ | .wrMod _ | .wrRes _ | .wrR7 _ => true
  | .rdOpa | .rdOpb | .rdMod | .rdRes | .rdCmd | .rdStatus | .rdCtrl | .rdR7 => true

/-- The command word an instruction submits, if it is a submission (R152). -/
def submittedWord : Instr → Option Word
  | .mulmod => some (commandWord .mulmod)
  | .powmod => some (commandWord .powmod)
  | .isqrt => some (commandWord .isqrt)
  | .isprime => some (commandWord .isprime)
  | .wrCmd v => some v
  | .wrOpa _ | .wrOpb _ | .wrMod _ | .wrRes _ | .wrStatus _ | .wrCtrl _ | .wrR7 _ => none
  | .rdOpa | .rdOpb | .rdMod | .rdRes | .rdCmd | .rdStatus | .rdCtrl | .rdR7 => none

/-- Whether an instruction is the soft reset (R158). -/
def isSoftReset : Instr → Bool
  | .wrCtrl v => v.getLsbD 2
  | .mulmod | .powmod | .isqrt | .isprime => false
  | .wrOpa _ | .wrOpb _ | .wrMod _ | .wrRes _ | .wrCmd _ | .wrStatus _ | .wrR7 _ => false
  | .rdOpa | .rdOpb | .rdMod | .rdRes | .rdCmd | .rdStatus | .rdCtrl | .rdR7 => false

/-- Whether an instruction is a STATUS write with bit 2, the return from a fault (R156, R201). -/
def clearsError : Instr → Bool
  | .wrStatus v => v.getLsbD 2
  | .mulmod | .powmod | .isqrt | .isprime => false
  | .wrOpa _ | .wrOpb _ | .wrMod _ | .wrRes _ | .wrCmd _ | .wrCtrl _ | .wrR7 _ => false
  | .rdOpa | .rdOpb | .rdMod | .rdRes | .rdCmd | .rdStatus | .rdCtrl | .rdR7 => false

/-- Whether an instruction is a STATUS write with bit 1, which clears DONE (R156). -/
def clearsDone : Instr → Bool
  | .wrStatus v => v.getLsbD 1
  | .mulmod | .powmod | .isqrt | .isprime => false
  | .wrOpa _ | .wrOpb _ | .wrMod _ | .wrRes _ | .wrCmd _ | .wrCtrl _ | .wrR7 _ => false
  | .rdOpa | .rdOpb | .rdMod | .rdRes | .rdCmd | .rdStatus | .rdCtrl | .rdR7 => false

/-- The next input of `s` is one that carries out an instruction with property `p`. -/
def nextInstr (p : Instr → Bool) (s : State) : Prop :=
  ∃ e rest i, s.inputs = e :: rest ∧ actionOf e = .transaction i ∧ p i = true

/-- The next input of `s` resets the block, hard or soft. -/
def nextResets (s : State) : Prop :=
  nextInstr isSoftReset s ∨ ∃ e rest, s.inputs = e :: rest ∧ actionOf e = .reset

/-- The next event of `s` is the unit's own: its input says so, or the host is silent. -/
def nextIsUnit (s : State) : Prop :=
  s.inputs = [] ∨ ∃ e rest, s.inputs = e :: rest ∧ actionOf e = .unit

/-- R162: an event that leaves a running operation alone. -/
def quietEvent (e : Event) : Bool :=
  match actionOf e with
  | .transaction i => quietInstr i
  | .reset => false
  | .unit => true
  | .nothing => true
  | .refuse _ => false

/-- What the port can show of the block: the eight registers a read returns and the interrupt line (R30). -/
def portView (s : State) : List Word × Bool :=
  ([regRead .opa s, regRead .opb s, regRead .mod s, regRead .res s, regRead .cmd s, regRead .status s, regRead .ctrl s,
    regRead .r7 s], irq s)

/-! ## Calls -/

/-- R79: `WAIT` from `s` is done with the turns `turns` and no fewer: the read of STATUS that ends them returns bit 0 = 0, and
the read that ends any earlier turn returned bit 0 = 1. -/
def WaitsExactly (turns : List Nat) (s : State) : Prop :=
  turns ≠ [] ∧ (∃ t, performAll (turns.flatMap pollAfter) s = .next t ∧ t.rdata.getLsbD 0 = false) ∧
    ∀ j, 1 ≤ j → j < turns.length →
      ∃ t, performAll ((turns.take j).flatMap pollAfter) s = .next t ∧ t.rdata.getLsbD 0 = true

/-- R79: `o` is what a call-like form with the writes `writes` comes to from `s`: the writes are carried out, then `WAIT`, then
RES is read, with BUSY = 0 and with the operand registers holding `a`, `b` and `m`; where `WAIT` has no expansion yet the call
has none. That `before` is the writes alone, with no step of the unit among them, is the model's choice (log entry 19). -/
def CallExpandsTo (writes : List Instr) (a b m : Word) (polls : List Nat) (s : State) (o : Option (List Event)) : Prop :=
  ∃ before t, before.map actionOf = writes.map .transaction ∧ performAll before s = .next t ∧
    ((wait polls t = none ∧ o = none) ∨
      ∃ ws last u, wait polls t = some ws ∧ o = some (before ++ ws ++ [last]) ∧ actionOf last = .transaction .rdRes ∧
        performAll ws t = .next u ∧ u.rdata.getLsbD 0 = false ∧ u.status.busy = false ∧
        u.opa = a ∧ u.opb = b ∧ u.modulus = m ∧
        performAll (before ++ ws ++ [last]) s = .next { u with rdata := u.res })

end Sys2Proof.Machine
end

