-- ==== Sys2Proof/Certificates/Slice0/Obligations.lean ====
section
/-! DEFINITION. The statements about the block, for the provers. Each docstring names the rule of spec/ it formalises; a
clause that rests on a choice of the model says so and names the log entry. -/

open Sys2Proof Sys2Proof.Machine

/-! ## Encoding -/

/-- Decoding the word of an instruction gives the instruction back, its 64-bit DATA whole (R71, R75, R78). -/
def Obligations.DecodeOfEncodeIsTheInstruction : Prop :=
  ∀ i : Instr, i.wellFormed = true → decode (encode i) = .ok i

/-- The other direction: a word that decodes is the word its instruction encodes to, so no two words mean the same
instruction (R71, R75, R77). -/
def Obligations.EncodeOfDecodeIsTheWord : Prop :=
  ∀ (e : Encoded) (i : Instr), decode e = .ok i → encode i = e

/-- R77: the four command words, and no others, decode to a command. -/
def Obligations.ExactlyFourWordsAreCommands : Prop :=
  ∀ w : Word,
    (decodeCommand w = .ok .mulmod ↔ w = 1#64) ∧ (decodeCommand w = .ok .powmod ↔ w = 2#64) ∧
    (decodeCommand w = .ok .isqrt ↔ w = 3#64) ∧ (decodeCommand w = .ok .isprime ↔ w = 4#64) ∧
    ((∃ e, decodeCommand w = .error e) ↔ w ≠ 1#64 ∧ w ≠ 2#64 ∧ w ≠ 3#64 ∧ w ≠ 4#64) ∧
    (w.extractLsb' 4 60 ≠ 0#60 → ∃ e, decodeCommand w = .error e)

/-- Words written out from the tables of R71 and R78. -/
def Obligations.WrittenOutWordsDecode : Prop :=
  decodeTableWord 64 0x0000000000000001 = some .mulmod ∧
  decodeTableWord 64 0x0000000000000004 = some .isprime ∧
  decodeTableWord 64 0x0000000000000011 = none ∧
  decodeTableWord 72 0x80123456789ABCDEF = some (.wrOpa 0x0123456789ABCDEF#64) ∧
  decodeTableWord 72 0xC0000000000000013 = some (.wrCmd 0x13#64) ∧
  decodeTableWord 72 0xE0000000000000004 = some (.wrCtrl 4#64) ∧
  decodeTableWord 72 0x30000000000000000 = some .rdRes ∧
  decodeTableWord 72 0x50000000000000000 = some .rdStatus

/-- R80: all sixteen headers `{WE, IDX}` are transactions, index 7 behaves as R28 says and a write of index 3 is ignored.
-/
def Obligations.EveryPortHeaderIsATransaction : Prop :=
  (∀ (idx : BitVec 3) (v : Word),
    decode (.port (1#1 ++ idx ++ v)) = .ok (writeInstr (portRegOfIndex idx) v) ∧
    decode (.port (0#1 ++ idx ++ 0#64)) = .ok (readInstr (portRegOfIndex idx))) ∧
  (∀ (v : Word) (s : State), exec (.wrRes v) s = .next s ∧ exec (.wrR7 v) s = .next s ∧
    exec .rdR7 s = .next { s with rdata := 0#64 })

/-! ## The step -/

/-- When the next input is a word that decodes to an instruction, the step is that instruction on the state whose input is
taken away; and a word placed by `withFetchWord` is that next input. The input list is the model's (log entries 2, 15). -/
def Obligations.StepRunsTheDecodedInstruction : Prop :=
  (∀ (s : State) (e : Encoded) (rest : List Event) (i : Instr),
    s.inputs = .word e :: rest → decode e = .ok i → step s = exec i { s with inputs := rest }) ∧
  (∀ (s : State) (nbits w : Nat) (i : Instr),
    decodeTableWord nbits w = some i → step (s.withFetchWord nbits w) = exec i s)

/-- With no input left only the unit can act: while RUN the step is its step, and while IDLE the block waits (R155, R220).
That the host is silent when the list is empty is the model's choice (log entry 2). -/
def Obligations.SilentHostLeavesTheUnitToStep : Prop :=
  ∀ s : State, s.inputs = [] → step s = unitStep s ∧ (s.seq = .idle → step s = .next s)

/-- Whatever event stands first in the input list, the step performs it on the state with that event taken from the list, and
no other (R58); what each kind does is said by the statements about `perform` (the strobes, the bus accesses, the reset) and
`StepRunsTheDecodedInstruction`. A reset, a step of the unit and a word of neither format are spelt out here (R155, R220).
That the events stand in a list is the model's choice (log entry 2); that a word of neither format is refused is deduced from
there being two formats (log entry 18). -/
def Obligations.StepPerformsTheNextEvent : Prop :=
  ∀ (s : State) (e : Event) (rest : List Event), s.inputs = e :: rest →
    step s = perform e { s with inputs := rest } ∧
    (e = .hardReset → step s = .next (resetBlock { s with inputs := rest })) ∧
    (e = .unitStep → step s = unitStep { s with inputs := rest }) ∧
    (∀ nbits w : Nat, e = .foreign nbits w → step s = .refused .unknownFormat)

/-- R192: an illegal word, OPC outside 1 to 4 or a reserved bit set, written to CMD in the idle, fault-free state is
rejected with cause 1, and nothing but ERR and CAUSE changes. -/
def Obligations.IllegalWordIsRejected : Prop :=
  ∀ (s : State) (v : Word), s.status.err = false → s.status.busy = false →
    ((v.extractLsb' 0 4).toNat = 0 ∨ 5 ≤ (v.extractLsb' 0 4).toNat ∨ v.extractLsb' 4 60 ≠ 0#60) →
    exec (.wrCmd v) s = .next { s with status := { s.status with err := true, cause := .illegalCmd } }

/-! ## Reads -/

/-- R150: each read returns the value its table gives, on `reg_rdata`, and changes no other state, in every state. -/
def Obligations.ReadsReturnTheRegisters : Prop :=
  ∀ s : State,
    exec .rdOpa s = .next { s with rdata := s.opa } ∧
    exec .rdOpb s = .next { s with rdata := s.opb } ∧
    exec .rdMod s = .next { s with rdata := s.modulus } ∧
    exec .rdRes s = .next { s with rdata := s.res } ∧
    exec .rdCmd s = .next { s with rdata := s.cmd } ∧
    exec .rdStatus s = .next { s with
      rdata := BitVec.ofNat 64 (s.status.busy.toNat + 2 * s.status.done.toNat + 4 * s.status.err.toNat +
        16 * (causeCode s.status.cause).toNat) } ∧
    exec .rdCtrl s = .next { s with rdata := BitVec.ofNat 64 (s.ctrl.ienDone.toNat + 2 * s.ctrl.ienErr.toNat) } ∧
    exec .rdR7 s = .next { s with rdata := 0#64 } ∧
    (∀ r : PortReg, decode (.port (0#1 ++ indexOfPortReg r ++ 0#64)) = .ok (readInstr r))

/-- Reads are idempotent and show nothing new of the block: reading again returns the same, and what the port shows is as
before (R55). -/
def Obligations.ReadsAreIdempotent : Prop :=
  ∀ (r : PortReg) (s t : State), exec (readInstr r) s = .next t →
    exec (readInstr r) t = .next t ∧ portView t = portView s ∧ t.w = s.w ∧ t.seq = s.seq

/-- The reserved bits of STATUS (3 and 63:8) and of CTRL (63:3), and SRST, read 0 in every state; the cause codes stand in
bits 7:4 (R25, R26, R33 (d)). -/
def Obligations.ReservedBitsReadZero : Prop :=
  ∀ s : State,
    statusWord s.status &&& 0xFFFFFFFFFFFFFF08#64 = 0#64 ∧
    (statusWord s.status).extractLsb' 4 4 = causeCode s.status.cause ∧
    (statusWord s.status).getLsbD 0 = s.status.busy ∧ (statusWord s.status).getLsbD 1 = s.status.done ∧
    (statusWord s.status).getLsbD 2 = s.status.err ∧
    ctrlWord s.ctrl &&& 0xFFFFFFFFFFFFFFFC#64 = 0#64 ∧
    (ctrlWord s.ctrl).getLsbD 0 = s.ctrl.ienDone ∧ (ctrlWord s.ctrl).getLsbD 1 = s.ctrl.ienErr

/-! ## Writes -/

/-- R160: a write of OPA, OPB or MOD stores all 64 bits in that register and does nothing else, in every state. -/
def Obligations.OperandWritesStoreTheWord : Prop :=
  ∀ (v : Word) (s : State),
    exec (.wrOpa v) s = .next { s with opa := v } ∧
    exec (.wrOpb v) s = .next { s with opb := v } ∧
    exec (.wrMod v) s = .next { s with modulus := v }

/-- R159: a write of RES or of index 7 changes nothing, and RES changes only by a completion or a reset. -/
def Obligations.WritesOfResAndIndex7AreIgnored : Prop :=
  (∀ (v : Word) (s : State), exec (.wrRes v) s = .next s ∧ exec (.wrR7 v) s = .next s) ∧
  (∀ s t : State, step s = .next t → t.res ≠ s.res → (nextIsUnit s ∧ ∃ v, s.seq = .run (.ready v)) ∨ nextResets s)

/-- R156: a write of STATUS clears DONE where bit 1 is set and ERR with CAUSE where bit 2 is, and changes nothing else. -/
def Obligations.StatusWriteClearsFlags : Prop :=
  ∀ (v : Word) (s : State),
    exec (.wrStatus v) s = .next { s with
      status := {
        busy := s.status.busy
        done := s.status.done && !v.getLsbD 1
        err := s.status.err && !v.getLsbD 2
        cause := if v.getLsbD 2 = true then .none else s.status.cause } }

/-- R157: a write of CTRL without bit 2 sets the two enables, which act on `irq` at once, and nothing else; with bit 2 it is
the reset and its bits 1:0 are discarded. -/
def Obligations.CtrlWriteSetsTheEnables : Prop :=
  ∀ (v : Word) (s : State),
    (v.getLsbD 2 = false → ∃ t, exec (.wrCtrl v) s = .next t ∧
      t = { s with ctrl := { ienDone := v.getLsbD 0, ienErr := v.getLsbD 1 } } ∧
      irq t = ((s.status.done && v.getLsbD 0) || (s.status.err && v.getLsbD 1))) ∧
    (v.getLsbD 2 = true → ∃ t, exec (.wrCtrl v) s = .next t ∧ perform .hardReset s = .next t ∧
      t.ctrl = { ienDone := false, ienErr := false })

/-- R158, R221: the soft reset has exactly the effect of the hard reset: every register, STATUS, CTRL and seq at the reset
value, a running operation abandoned, SRST reading 0. Of the working registers, unspecified after a reset, nothing is
said. -/
def Obligations.SoftResetIsTheHardReset : Prop :=
  ∀ (v : Word) (s : State), v.getLsbD 2 = true →
    ∃ t, exec (.wrCtrl v) s = .next t ∧ perform .hardReset s = .next t ∧ HoldsResetValues t ∧ ctrlWord t.ctrl = 0#64

/-! ## Submission and the reject -/

/-- R196: exactly one outcome of a write of CMD is taken, the first that applies: dropped, CMD_WHILE_BUSY, ILLEGAL_CMD,
MOD_ZERO, acceptance. -/
def Obligations.SubmissionTakesTheFirstOutcome : Prop :=
  ∀ (v : Word) (s : State),
    exec (.wrCmd v) s = .next
      (if s.status.err = true then s
      else if s.status.busy = true then
        { s with status := { s.status with err := true, cause := .cmdWhileBusy } }
      else if v ≠ 1#64 ∧ v ≠ 2#64 ∧ v ≠ 3#64 ∧ v ≠ 4#64 then
        { s with status := { s.status with err := true, cause := .illegalCmd } }
      else if (v = 1#64 ∨ v = 2#64) ∧ s.modulus = 0#64 then
        { s with status := { s.status with err := true, cause := .modZero } }
      else
        { s with
          w := { s.w with a := s.opa, b := s.opb, m := s.modulus, opc := v.extractLsb' 0 4 }
          cmd := v
          status := { s.status with busy := true, done := false }
          seq := .run .load })

/-- Each command's instruction is the write of its word to CMD (R71, R78), and a command word that comes as the next input,
legal or not, is that write (R73, R192). That the CMDW row stands for the write is the model's reading (log entry 1). -/
def Obligations.CommandsAreWritesOfTheirWord : Prop :=
  (∀ s : State,
    exec .mulmod s = exec (.wrCmd 1#64) s ∧ exec .powmod s = exec (.wrCmd 2#64) s ∧
    exec .isqrt s = exec (.wrCmd 3#64) s ∧ exec .isprime s = exec (.wrCmd 4#64) s) ∧
  (∀ (v : Word) (s : State) (rest : List Event), s.inputs = .word (.cmdw v) :: rest →
    step s = exec (.wrCmd v) { s with inputs := rest })

/-- R153: acceptance of a legal command word in the idle, fault-free state takes the operand snapshot, stores the command
word, clears DONE, sets BUSY and starts the sequencer, and leaves everything else; MULMOD and POWMOD need MOD not 0. The
second clause says it of each command's instruction. -/
def Obligations.AcceptanceTakesTheSnapshot : Prop :=
  ∀ s : State, s.status.err = false → s.status.busy = false →
    (∀ (c : Command) (v : Word), decodeCommand v = .ok c → (needsModulus c = true → s.modulus ≠ 0#64) →
      exec (.wrCmd v) s = .next { s with
        w := { s.w with a := s.opa, b := s.opb, m := s.modulus, opc := v.extractLsb' 0 4 }
        cmd := v
        status := { s.status with busy := true, done := false }
        seq := .run .load }) ∧
    (s.modulus ≠ 0#64 →
      exec .mulmod s = .next { s with
        w := { s.w with a := s.opa, b := s.opb, m := s.modulus, opc := 1#4 }
        cmd := 1#64
        status := { s.status with busy := true, done := false }
        seq := .run .load } ∧
      exec .powmod s = .next { s with
        w := { s.w with a := s.opa, b := s.opb, m := s.modulus, opc := 2#4 }
        cmd := 2#64
        status := { s.status with busy := true, done := false }
        seq := .run .load }) ∧
    exec .isqrt s = .next { s with
      w := { s.w with a := s.opa, b := s.opb, m := s.modulus, opc := 3#4 }
      cmd := 3#64
      status := { s.status with busy := true, done := false }
      seq := .run .load } ∧
    exec .isprime s = .next { s with
      w := { s.w with a := s.opa, b := s.opb, m := s.modulus, opc := 4#4 }
      cmd := 4#64
      status := { s.status with busy := true, done := false }
      seq := .run .load }

/-- R191: MULMOD and POWMOD with MOD = 0 are rejected with cause 2, whatever the other operands (POWMOD with exponent 0
too); ISQRT and ISPRIME are accepted with MOD = 0. -/
def Obligations.ZeroModulusIsRejected : Prop :=
  ∀ s : State, s.status.err = false → s.status.busy = false → s.modulus = 0#64 →
    exec .mulmod s = .next { s with status := { s.status with err := true, cause := .modZero } } ∧
    exec .powmod s = .next { s with status := { s.status with err := true, cause := .modZero } } ∧
    (∃ t, exec .isqrt s = .next t ∧ t.status.err = false ∧ t.status.busy = true) ∧
    (∃ t, exec .isprime s = .next t ∧ t.status.err = false ∧ t.status.busy = true)

/-- R194: any write of CMD while BUSY, with no fault recorded, is rejected with cause 3; the running operation goes on as
if the write had not happened, each of its steps and its completion being the same but for ERR and CAUSE, which stay. -/
def Obligations.CommandWhileBusyDoesNotDisturb : Prop :=
  (∀ (v : Word) (s : State), s.status.err = false → s.status.busy = true →
    exec (.wrCmd v) s = .next { s with status := { s.status with err := true, cause := .cmdWhileBusy } }) ∧
  (∀ s t : State, unitStep s = .next t →
    unitStep { s with status := { s.status with err := true, cause := .cmdWhileBusy } } =
      .next { t with status := { t.status with err := true, cause := .cmdWhileBusy } })

/-- R200: a reject changes ERR and CAUSE only. -/
def Obligations.RejectsArePrecise : Prop :=
  ∀ (i : Instr) (s t : State), exec i s = .next t → s.status.err = false → t.status.err = true →
    (∃ v, submittedWord i = some v) ∧ t.status.cause ≠ .none ∧
    t = { s with status := { s.status with err := true, cause := t.status.cause } }

/-- R202: faults do not nest. While ERR is set a submission changes nothing, ERR and CAUSE stay through every step but one
that clears them or resets, and a completion still sets DONE and writes RES. -/
def Obligations.FaultsDoNotNest : Prop :=
  ∀ s : State, s.status.err = true →
    (∀ i v, submittedWord i = some v → exec i s = .next s) ∧
    (∀ t, step s = .next t →
      (t.status.err = true ∧ t.status.cause = s.status.cause) ∨ nextInstr clearsError s ∨ nextResets s) ∧
    (∀ v, s.seq = .run (.ready v) → ∃ t, unitStep s = .next t ∧ t.status.done = true ∧ t.res = v ∧
      t.status.err = true ∧ t.status.cause = s.status.cause)

/-- R201: the return from a fault is a write of STATUS with bit 2, or a reset; it restores nothing, changes no enable and
retries no command, and once the block is not busy it accepts commands again. -/
def Obligations.ClearingTheErrorReopensTheBlock : Prop :=
  ∀ s : State,
    exec (.wrStatus 4#64) s = .next { s with status := { s.status with err := false, cause := .none } } ∧
    (∃ t, exec (.wrCtrl 4#64) s = .next t ∧ t.status.err = false ∧ t.status.cause = .none) ∧
    (∃ t, perform .hardReset s = .next t ∧ t.status.err = false ∧ t.status.cause = .none) ∧
    (s.status.busy = false → ∃ t u, exec (.wrStatus 4#64) s = .next t ∧ exec .isqrt t = .next u ∧
      u.status.busy = true ∧ u.status.err = false ∧ u.cmd = 3#64)

/-! ## Reset -/

/-- R32: the values after a reset, hard or soft, and in the model's `State.reset`. A read of a register that nothing has
written returns 0, and MULMOD or POWMOD straight after reset is a reject. Of the working registers nothing is said. -/
def Obligations.ResetStateHoldsTheSpecValues : Prop :=
  HoldsResetValues State.reset ∧
  (∀ s : State, ∃ t, perform .hardReset s = .next t ∧ HoldsResetValues t) ∧
  (∀ s : State, ∃ t, exec (.wrCtrl 4#64) s = .next t ∧ HoldsResetValues t) ∧
  (∀ s : State, HoldsResetValues s →
    (∀ r : PortReg, ∃ t, exec (readInstr r) s = .next t ∧ t.rdata = 0#64) ∧
    (∃ t, exec .mulmod s = .next t ∧ t.status.err = true ∧ t.status.cause = .modZero) ∧
    (∃ t, exec .powmod s = .next t ∧ t.status.err = true ∧ t.status.cause = .modZero))

/-- R220: while `rst` is asserted the block is in the reset state and a transaction presented at the edge is ignored. -/
def Obligations.TransactionsUnderResetAreIgnored : Prop :=
  ∀ (p : Pins) (s : State), p.rst = true →
    perform (.edge p) s = perform .hardReset s ∧ ∃ t, perform (.edge p) s = .next t ∧ HoldsResetValues t

/-! ## The port's signals and the bus mapping -/

/-- At a clock edge without `rst`: a write strobe alone is `RegWrite`, a read strobe alone is `RegRead`, neither is no
transaction (R51); both together are no transaction and are refused (93_implementation_defined.md U18). -/
def Obligations.StrobesMakeTransactions : Prop :=
  ∀ (idx : BitVec 3) (data : Word) (s : State),
    perform (.edge ⟨false, true, false, idx, data⟩) s = exec (writeInstr (portRegOfIndex idx) data) s ∧
    perform (.edge ⟨false, false, true, idx, data⟩) s = exec (readInstr (portRegOfIndex idx)) s ∧
    perform (.edge ⟨false, false, false, idx, data⟩) s = .next s ∧
    perform (.edge ⟨false, true, true, idx, data⟩) s = .refused .bothStrobes

/-- R52, R53: on a byte-addressed bus the aligned 64-bit access at offset 8 * idx is the transaction on register idx, the
byte at offset j holding bits 8j + 7 : 8j; an access of another width, or misaligned, is refused. -/
def Obligations.AlignedBusAccessesAreTransactions : Prop :=
  (∀ (idx : BitVec 3) (v : Word) (s : State),
    perform (.busWrite (Config.mmbBase + 8 * idx.toNat) (bytesOf v)) s = exec (writeInstr (portRegOfIndex idx) v) s ∧
    perform (.busRead (Config.mmbBase + 8 * idx.toNat) 8) s = exec (readInstr (portRegOfIndex idx)) s) ∧
  (∀ (v : Word) (j : Nat), j < 8 → (bytesOf v)[j]? = some (v.extractLsb' (8 * j) 8)) ∧
  (∀ (address size : Nat) (s : State), (size ≠ 8 ∨ address % 8 ≠ 0) →
    perform (.busRead address size) s = .refused .notATransaction ∧
    ∀ bytes : List Byte, bytes.length = size →
      perform (.busWrite address bytes) s = .refused .notATransaction)

/-! ## Interrupt -/

/-- R199: a source is pending exactly while its flag is 1; enabling it raises `irq` at once, clearing the flag or the
enable drops it, acceptance ends *done*, a read clears nothing, and `irq` is 0 after reset. -/
def Obligations.InterruptFollowsFlagsAndEnables : Prop :=
  ∀ s : State,
    irq s = ((s.status.done && s.ctrl.ienDone) || (s.status.err && s.ctrl.ienErr)) ∧
    (∀ v t, exec (.wrCtrl v) s = .next t → v.getLsbD 2 = false →
      irq t = ((s.status.done && v.getLsbD 0) || (s.status.err && v.getLsbD 1))) ∧
    (∀ v t, exec (.wrStatus v) s = .next t →
      irq t = ((s.status.done && !v.getLsbD 1 && s.ctrl.ienDone) ||
        (s.status.err && !v.getLsbD 2 && s.ctrl.ienErr))) ∧
    (∀ i v t, submittedWord i = some v → exec i s = .next t → s.status.busy = false → t.status.busy = true →
      irq t = false) ∧
    (∀ r t, exec (readInstr r) s = .next t → irq t = irq s) ∧
    (∀ t, perform .hardReset s = .next t → t.ctrl = { ienDone := false, ienErr := false } ∧ irq t = false)

/-! ## The unit -/

/-- R155: a UnitStep changes nothing a port read can return, nor `irq`, unless it is the completion; it is enabled exactly
when seq = RUN (where it is not, that nothing happens is the model's choice, log entry 3). -/
def Obligations.MicroStepsAreInvisible : Prop :=
  ∀ s t : State, unitStep s = .next t →
    (s.seq = .idle ∧ t = s) ∨
    (∃ v, s.seq = .run (.ready v) ∧ t.res = v) ∨
    (s.seq ≠ .idle ∧ t.seq ≠ .idle ∧ portView t = portView s ∧ t.inputs = s.inputs ∧ t.rdata = s.rdata ∧
      t.w.a = s.w.a ∧ t.w.b = s.w.b ∧ t.w.m = s.w.m ∧ t.w.opc = s.w.opc)

/-- R154: the completion writes RES with the result of the command on its snapshot, clears BUSY, sets DONE and idles the
sequencer in one step; ERR, CAUSE, CMD, CTRL and the operand registers stay, and `irq` rises where IEN_DONE is set. The
premise is the invariant of `OperationInvariantIsKept`. -/
def Obligations.CompletionWritesTheResult : Prop :=
  ∀ (s : State) (v : Word), Inv s → s.seq = .run (.ready v) →
    ∃ c, commandOfOpcode s.w.opc = some c ∧ IsResult c s.w.a.toNat s.w.b.toNat s.w.m.toNat v.toNat ∧
      ∃ t, unitStep s = .next t ∧
        t = { s with res := v, status := { s.status with busy := false, done := true }, seq := .idle } ∧
        (s.ctrl.ienDone = true → irq t = true)

/-- R161: a write of STATUS that clears DONE just before the completion does not lose it: DONE is 1 afterwards. A completion
and a write at one clock edge are, in the event model, this order of the two. -/
def Obligations.CompletionWinsOverAClear : Prop :=
  ∀ (s : State) (v w : Word), s.seq = .run (.ready v) → w.getLsbD 1 = true →
    ∃ t u, exec (.wrStatus w) s = .next t ∧ unitStep t = .next u ∧
      u.status.done = true ∧ u.status.busy = false ∧ u.res = v

/-- R155: nothing the host does, short of a reset, can delay, cancel or alter a running operation: no transaction but the
soft reset touches the working registers or the sequencer while BUSY. -/
def Obligations.HostCannotAlterARunningOperation : Prop :=
  ∀ (i : Instr) (s t : State), exec i s = .next t → s.status.busy = true → isSoftReset i = false →
    t.w = s.w ∧ t.seq = s.seq ∧ t.status.busy = true ∧ t.res = s.res ∧ t.cmd = s.cmd

/-! ## Whole-machine rules -/

/-- R21: RES changes in exactly two events, a completion and a reset. -/
def Obligations.ResultChangesOnlyAtCompletionOrReset : Prop :=
  ∀ s t : State, step s = .next t → t.res ≠ s.res →
    (∃ v, nextIsUnit s ∧ s.seq = .run (.ready v) ∧ t.res = v ∧ t.status.busy = false ∧ t.status.done = true) ∨
    (nextResets s ∧ t.res = 0#64)

/-- R27: `CMD` changes only by the acceptance of the word it then holds, or by a reset. -/
def Obligations.CommandRegisterHoldsTheLastAccepted : Prop :=
  ∀ s t : State, step s = .next t → t.cmd ≠ s.cmd →
    (∃ i, nextInstr (· == i) s ∧ submittedWord i = some t.cmd ∧ s.status.err = false ∧ s.status.busy = false ∧
      t.status.busy = true ∧ t.seq = .run .load ∧ ∃ c, decodeCommand t.cmd = .ok c) ∨
    (nextResets s ∧ t.cmd = 0#64)

/-- R24: nothing in the block advances from one command to the next; an operation starts only at the acceptance of a
submitted command. -/
def Obligations.OperationsStartOnlyAtAcceptance : Prop :=
  ∀ s t : State, step s = .next t → s.seq = .idle → t.seq ≠ .idle →
    t.seq = .run .load ∧ t.w.a = s.opa ∧ t.w.b = s.opb ∧ t.w.m = s.modulus ∧
      nextInstr (fun i => submittedWord i == some t.cmd) s

/-- R25: DONE is set only by a completion, ERR only by a reject, BUSY only by an acceptance. -/
def Obligations.FlagsAreSetOnlyByTheirEvents : Prop :=
  ∀ s t : State, step s = .next t →
    (s.status.done = false → t.status.done = true → nextIsUnit s ∧ ∃ v, s.seq = .run (.ready v)) ∧
    (s.status.err = false → t.status.err = true → nextInstr (fun i => (submittedWord i).isSome) s) ∧
    (s.status.busy = false → t.status.busy = true → nextInstr (fun i => (submittedWord i).isSome) s ∧ t.cmd ≠ 0#64)

/-- R25: BUSY is cleared only by a completion or a reset; DONE only by an acceptance, a STATUS write with bit 1 or a reset;
ERR only by a STATUS write with bit 2 or a reset; and CAUSE changes only with ERR. -/
def Obligations.FlagsAreClearedOnlyByTheirEvents : Prop :=
  ∀ s t : State, step s = .next t →
    (s.status.busy = true → t.status.busy = false →
      (nextIsUnit s ∧ ∃ v, s.seq = .run (.ready v) ∧ t.res = v) ∨ nextResets s) ∧
    (s.status.done = true → t.status.done = false →
      (nextInstr (fun i => (submittedWord i).isSome) s ∧ t.status.busy = true) ∨ nextInstr clearsDone s ∨ nextResets s) ∧
    (s.status.err = true → t.status.err = false → nextInstr clearsError s ∨ nextResets s) ∧
    (t.status.cause ≠ s.status.cause →
      (s.status.err = false ∧ t.status.err = true) ∨ nextInstr clearsError s ∨ nextResets s)

/-- R20, R26: the block itself never writes OPA, OPB, MOD or the enables, but that a reset clears them: each changes only
by the host's write of it, to the value written. -/
def Obligations.HostRegistersChangeOnlyByTheirWrites : Prop :=
  ∀ s t : State, step s = .next t →
    (t.opa ≠ s.opa → nextInstr (· == .wrOpa t.opa) s ∨ (nextResets s ∧ t.opa = 0#64)) ∧
    (t.opb ≠ s.opb → nextInstr (· == .wrOpb t.opb) s ∨ (nextResets s ∧ t.opb = 0#64)) ∧
    (t.modulus ≠ s.modulus → nextInstr (· == .wrMod t.modulus) s ∨ (nextResets s ∧ t.modulus = 0#64)) ∧
    (t.ctrl ≠ s.ctrl →
      (∃ v : Word, nextInstr (· == .wrCtrl v) s ∧ t.ctrl = { ienDone := v.getLsbD 0, ienErr := v.getLsbD 1 }) ∨
      (nextResets s ∧ t.ctrl = { ienDone := false, ienErr := false }))

/-- R33: its clauses (a) to (f) hold after reset, and after every step from a state in which they hold. -/
def Obligations.PortInvariantIsKept : Prop :=
  PortInv State.reset ∧ ∀ s t : State, PortInv s → step s = .next t → PortInv t

/-- The whole invariant, with R113, R123, R133 and R141 of the micro-programs and R112, R122, R132 and R142 of the results,
is kept by every step: whatever the host does in between, the running operation stays on its way to its result. -/
def Obligations.OperationInvariantIsKept : Prop :=
  ∀ s t : State, Inv s → step s = .next t → Inv t

/-- The invariant holds after reset. -/
def Obligations.ResetSatisfiesTheInvariant : Prop :=
  Inv State.reset

/-- R203: no fault arises during an operation or at its completion: from a state with the invariant the unit always steps
on and records no fault, no step of the machine ends in a stop of the model, and only an input that is no transaction is
refused. -/
def Obligations.NoStepFaults : Prop :=
  ∀ s : State, Inv s →
    (∃ t, unitStep s = .next t ∧ t.status.err = s.status.err ∧ t.status.cause = s.status.cause) ∧
    (∀ r, step s ≠ .fault r) ∧
    (∀ r, step s = .refused r → ∃ e rest, s.inputs = e :: rest ∧ actionOf e = .refuse r)

/-! ## The datapath primitives -/

/-- R90: the compensation constant is `(2^64 - m) mod m`, which is 2^64 mod m and below m; 0 at every power of two;
2^64 - m above 2^63; a mulmod keeps it in C from its load on. -/
def Obligations.CompensationConstantIsTheLostWeight : Prop :=
  ∀ m : Nat, 0 < m → m < 2 ^ 64 →
    neg64 m = 2 ^ 64 - m ∧ wrapc m = (2 ^ 64 - m) % m ∧ wrapc m = 2 ^ 64 % m ∧ wrapc m < m ∧
    (∀ k, m = 2 ^ k → wrapc m = 0) ∧ (2 ^ 63 < m → wrapc m = 2 ^ 64 - m) ∧
    (∀ (a b M : Word) (w : Working), M.toNat = m →
      (mulmodLoad a b M w).c.toNat = wrapc m ∧ (mulmodPass M (mulmodLoad a b M w)).c.toNat = wrapc m)

/-- R91, R92: the adder splits the true sum into 64 bits and a carry, and the carry is the test `wrap64(s + t) < s`. -/
def Obligations.AdderCarryIsTheWrap : Prop :=
  ∀ s t : Nat, s < 2 ^ 64 → t < 2 ^ 64 →
    s + t = (add64 s t).1 + 2 ^ 64 * (add64 s t).2 ∧ (add64 s t).1 < 2 ^ 64 ∧
    ((add64 s t).2 = 1 ↔ 2 ^ 64 ≤ s + t) ∧ ((add64 s t).2 = 1 ↔ wrap64 (s + t) < s)

/-- R94: the compensated addition is the exact modular sum; the compensating addition never wraps a second time; a wrap is
possible only above 2^63. -/
def Obligations.CompensatedAdditionIsExact : Prop :=
  ∀ s t m : Nat, 0 < m → m < 2 ^ 64 → s < m → t < m →
    addmod s t m = (s + t) % m ∧ addmod s t m < m ∧
    (carry64 s t = 1 → wrap64 (s + t) + wrapc m < 2 ^ 64 ∧ 2 ^ 63 < m)

/-- R95: the compensated doubling is exact, and wraps exactly when t is 2^63 or more. -/
def Obligations.CompensatedDoublingIsExact : Prop :=
  ∀ t m : Nat, 0 < m → m < 2 ^ 64 → t < m →
    dblmod t m = addmod t t m ∧ dblmod t m = 2 * t % m ∧ (carry64 t t = 1 ↔ 2 ^ 63 ≤ t)

/-- R98: the restoring divider's partial remainder, with the bits below n still to come, is (x >> n) mod d, within 65 bits
at every shift; after the last bit it is x mod d, the remainder of R97. -/
def Obligations.RestoringDividerIsTheRemainder : Prop :=
  ∀ x d : Nat, x < 2 ^ 64 → 0 < d → d < 2 ^ 64 →
    (∀ n ≤ 64, restoringLoop x d 64 0 = restoringLoop x d n (x >>> n % d)) ∧
    (∀ (rm : Nat) (bit : Bool), rm < d → 2 * rm + bit.toNat < 2 ^ 65 ∧ restoringStep d bit rm < d) ∧
    remRestoring x d = rem x d ∧ rem x d = x % d ∧ rem x d < d

/-! ## The micro-programs -/

/-- R113: after j passes of the mulmod loop, j up to the number of bits of the smaller operand, K, T and ACC are what the
rule says, T but for the skipped doubling of the last pass; K is 0 after exactly that many passes, at most 64, and ACC is
then the product reduced. -/
def Obligations.MulmodPassesKeepTheLoopInvariant : Prop :=
  ∀ (a b m : Word) (w : Working) (j : Nat), m ≠ 0#64 → j ≤ bitlen (min a.toNat b.toNat) →
    let k0 := min a.toNat b.toNat
    let t0 := max a.toNat b.toNat
    let v := (mulmodPass m)^[j] (mulmodLoad a b m w)
    v.k.toNat = k0 >>> j ∧ v.acc.toNat = t0 * (k0 % 2 ^ j) % m.toNat ∧
    (j < bitlen k0 → v.t.toNat = t0 * 2 ^ j % m.toNat) ∧
    v.acc.toNat < m.toNat ∧ v.t.toNat < m.toNat ∧ (v.k = 0#64 ↔ j = bitlen k0) ∧
    (j = bitlen k0 → v.acc.toNat = a.toNat * b.toNat % m.toNat) ∧ bitlen k0 ≤ 64

/-- R133: with n passes of the square root still to come, SB, SQ and SR are what the rule says, the test of the pass asks
for the next bit of the root, the sum SQ + SB does not overflow and the shift of SQ loses no bit; after the last pass SQ is
the root. -/
def Obligations.IsqrtPassesKeepTheLoopInvariant : Prop :=
  ∀ (x : Word) (w : Working) (n : Nat), n ≤ 32 →
    let v := isqrtPass^[32 - n] (isqrtLoad x w)
    let p := Nat.sqrt x.toNat >>> n <<< n
    v.sq.toNat = p * 2 ^ n ∧ v.sr.toNat = x.toNat - p * p ∧
    (1 ≤ n → v.sb.toNat = 4 ^ (n - 1) ∧ v.sq.toNat + v.sb.toNat < 2 ^ 64 ∧ v.sq.toNat % 2 = 0 ∧
      (v.sq.toNat + v.sb.toNat ≤ v.sr.toNat ↔ (p + 2 ^ (n - 1)) * (p + 2 ^ (n - 1)) ≤ x.toNat)) ∧
    (n = 0 → v.sb = 0#64 ∧ v.sq.toNat = Nat.sqrt x.toNat ∧
      v.sr.toNat = x.toNat - Nat.sqrt x.toNat * Nat.sqrt x.toNat)

/-- R112: MULMOD, accepted, completes after finitely many steps of the unit, with the product reduced; STATUS shows DONE,
and everything else at the port is as it was. With a host in between see `CallReturnsTheFunctionValue`. -/
def Obligations.MulmodCompletesWithTheProduct : Prop :=
  ∀ s : State, s.status.err = false → s.status.busy = false → s.modulus ≠ 0#64 →
    ∃ t n u, exec .mulmod s = .next t ∧
      Host.Core.run Sys2Proof.core n { t with inputs := List.replicate n .unitStep } = .next u ∧
      u.res.toNat = s.opa.toNat * s.opb.toNat % s.modulus.toNat ∧ u.res.toNat < s.modulus.toNat ∧
      u.status = { s.status with done := true } ∧ u.seq = .idle ∧ u.cmd = 1#64 ∧
      u.opa = s.opa ∧ u.opb = s.opb ∧ u.modulus = s.modulus ∧ u.ctrl = s.ctrl ∧ u.rdata = s.rdata ∧ u.inputs = []

/-- R122: POWMOD, accepted, completes after finitely many steps of the unit, with 1 for exponent 0 and the power reduced
otherwise. -/
def Obligations.PowmodCompletesWithThePower : Prop :=
  ∀ s : State, s.status.err = false → s.status.busy = false → s.modulus ≠ 0#64 →
    ∃ t n u, exec .powmod s = .next t ∧
      Host.Core.run Sys2Proof.core n { t with inputs := List.replicate n .unitStep } = .next u ∧
      u.res.toNat = (if s.opb.toNat = 0 then 1 else s.opa.toNat ^ s.opb.toNat % s.modulus.toNat) ∧
      u.status = { s.status with done := true } ∧ u.seq = .idle ∧ u.cmd = 2#64 ∧
      u.opa = s.opa ∧ u.opb = s.opb ∧ u.modulus = s.modulus ∧ u.ctrl = s.ctrl ∧ u.rdata = s.rdata ∧ u.inputs = []

/-- R132: ISQRT, accepted, completes after finitely many steps of the unit, with the exact floor of the square root,
whatever OPB and MOD hold. -/
def Obligations.IsqrtCompletesWithTheRoot : Prop :=
  ∀ s : State, s.status.err = false → s.status.busy = false →
    ∃ t n u, exec .isqrt s = .next t ∧
      Host.Core.run Sys2Proof.core n { t with inputs := List.replicate n .unitStep } = .next u ∧
      u.res.toNat * u.res.toNat ≤ s.opa.toNat ∧ s.opa.toNat < (u.res.toNat + 1) * (u.res.toNat + 1) ∧
      u.res.toNat ≤ 4294967295 ∧
      u.status = { s.status with done := true } ∧ u.seq = .idle ∧ u.cmd = 3#64 ∧
      u.opa = s.opa ∧ u.opb = s.opb ∧ u.modulus = s.modulus ∧ u.ctrl = s.ctrl ∧ u.rdata = s.rdata ∧ u.inputs = []

/-- R142: ISPRIME, accepted, completes after finitely many steps of the unit, with 1 exactly for the prime numbers and 0
otherwise, over the whole 64-bit range. -/
def Obligations.IsprimeCompletesWithThePrimality : Prop :=
  ∀ s : State, s.status.err = false → s.status.busy = false →
    ∃ t n u, exec .isprime s = .next t ∧
      Host.Core.run Sys2Proof.core n { t with inputs := List.replicate n .unitStep } = .next u ∧
      ((2 ≤ s.opa.toNat ∧ ∀ d, 2 ≤ d → d < s.opa.toNat → ¬ d ∣ s.opa.toNat) → u.res = 1#64) ∧
      (¬ (2 ≤ s.opa.toNat ∧ ∀ d, 2 ≤ d → d < s.opa.toNat → ¬ d ∣ s.opa.toNat) → u.res = 0#64) ∧
      u.status = { s.status with done := true } ∧ u.seq = .idle ∧ u.cmd = 4#64 ∧
      u.opa = s.opa ∧ u.opb = s.opb ∧ u.modulus = s.modulus ∧ u.ctrl = s.ctrl ∧ u.rdata = s.rdata ∧ u.inputs = []

/-- R113, R123, R131, R144: an accepted command has completed within its number of passes; what is added to the passes is
the load, the exits and the completion, the model's granularity (log entry 4). -/
def Obligations.CommandsCompleteWithinTheirPassBounds : Prop :=
  ∀ (c : Command) (s : State), s.status.err = false → s.status.busy = false →
    (needsModulus c = true → s.modulus ≠ 0#64) →
    ∃ t n u, exec (.wrCmd (commandWord c)) s = .next t ∧ n ≤ passBound c s.opa.toNat s.opb.toNat ∧
      Host.Core.run Sys2Proof.core n { t with inputs := List.replicate n .unitStep } = .next u ∧
      u.seq = .idle ∧ u.status.done = true ∧ u.cmd = commandWord c

/-- R155: the operation that runs in any state with the invariant completes, after at most 2^31 + 35 steps of the unit: the
four pass bounds the rule cites all lie within that. That the unit steps while the host is silent, the rule's fairness,
and the granularity of the steps are the model's (log entries 2, 4). -/
def Obligations.EveryOperationCompletes : Prop :=
  ∀ s : State, Inv s → s.inputs = [] → s.seq ≠ .idle →
    ∃ n u, n ≤ 2 ^ 31 + 35 ∧ Host.Core.run Sys2Proof.core n s = .next u ∧
      u.seq = .idle ∧ u.status = { s.status with busy := false, done := true }

/-! ## The call, under every interleaving -/

/-- R162: with the command accepted in the idle, fault-free state, and whatever events follow that are no CMD write, no
STATUS write with bit 2, no CTRL write with bit 2 and no reset, once a read of STATUS returns bit 0 = 0 the next read of
RES returns the function's value on the operands as they stood at the CMD write; and each operand register that no event
writes still holds its argument, whether or not the host writes the other two. -/
def Obligations.CallReturnsTheFunctionValue : Prop :=
  ∀ (c : Command) (s t u v : State) (es : List Event),
    s.status.err = false → s.status.busy = false → (needsModulus c = true → s.modulus ≠ 0#64) →
    exec (.wrCmd (commandWord c)) s = .next t →
    (∀ e ∈ es, quietEvent e = true) → performAll es t = .next u →
    exec .rdStatus u = .next v → v.rdata.getLsbD 0 = false →
    ∃ x, exec .rdRes v = .next x ∧
      IsResult c s.opa.toNat s.opb.toNat s.modulus.toNat x.rdata.toNat ∧ x.status.err = false ∧
      ((∀ e ∈ es, ∀ w, actionOf e ≠ .transaction (.wrOpa w)) → x.opa = s.opa) ∧
      ((∀ e ∈ es, ∀ w, actionOf e ≠ .transaction (.wrOpb w)) → x.opb = s.opb) ∧
      ((∀ e ∈ es, ∀ w, actionOf e ≠ .transaction (.wrMod w)) → x.modulus = s.modulus)

/-- R34, R59: the result depends on nothing but the operands the command reads, as they stand at its CMD write: two runs
that agree there give the same result, whatever else the two states hold and whatever the two hosts do meanwhile. -/
def Obligations.ResultDependsOnlyOnTheOperands : Prop :=
  ∀ (c : Command) (s₁ s₂ t₁ t₂ u₁ u₂ : State) (es₁ es₂ : List Event),
    s₁.status.err = false → s₁.status.busy = false → s₂.status.err = false → s₂.status.busy = false →
    s₁.opa = s₂.opa → (needsModulus c = true → s₁.opb = s₂.opb ∧ s₁.modulus = s₂.modulus ∧ s₁.modulus ≠ 0#64) →
    exec (.wrCmd (commandWord c)) s₁ = .next t₁ → exec (.wrCmd (commandWord c)) s₂ = .next t₂ →
    (∀ e ∈ es₁, quietEvent e = true) → (∀ e ∈ es₂, quietEvent e = true) →
    performAll es₁ t₁ = .next u₁ → performAll es₂ t₂ = .next u₂ →
    u₁.status.busy = false → u₂.status.busy = false → u₁.res = u₂.res

/-- R79: the expansions of the pseudo-instructions of the script notation. `WAIT` is read after read of STATUS until one
returns bit 0 = 0, so it expands to exactly the turns up to the first such read, and it ends once the unit has completed. A
call-like form is its writes, that `WAIT`, and the read of RES, which is thus never made while BUSY = 1, with the operand
registers still holding the arguments. How many steps the unit takes before each read is open (R155), and that a list says so
is the model's choice (log entry 17), as is that the unit takes none between a call's own writes (log entry 19). -/
def Obligations.PseudoInstructionsExpand : Prop :=
  actionOf clrDone = .transaction (.wrStatus 2#64) ∧ actionOf clrErr = .transaction (.wrStatus 4#64) ∧
  actionOf softReset = .transaction (.wrCtrl 4#64) ∧
  (∀ n : Nat, (pollAfter n).map actionOf = List.replicate n Action.unit ++ [.transaction .rdStatus]) ∧
  (∀ (polls : List Nat) (s : State) (es : List Event), wait polls s = some es ↔
    ∃ turns rest, polls = turns ++ rest ∧ WaitsExactly turns s ∧ es = turns.flatMap pollAfter) ∧
  (∀ (polls : List Nat) (n : Nat) (s t : State), performAll (List.replicate n .unitStep) s = .next t →
    t.seq = .idle → t.status.busy = false → polls ≠ [] → n ≤ polls.sum → ∃ es, wait polls s = some es) ∧
  ∀ (a b m : Word) (polls : List Nat) (s : State),
    CallExpandsTo [.wrOpa a, .wrOpb b, .wrMod m, .wrCmd 1#64] a b m polls s (callMulmod a b m polls s) ∧
    CallExpandsTo [.wrOpa a, .wrOpb b, .wrMod m, .wrCmd 2#64] a b m polls s (callPowmod a b m polls s) ∧
    CallExpandsTo [.wrOpa a, .wrCmd 3#64] a s.opb s.modulus polls s (callIsqrt a polls s) ∧
    CallExpandsTo [.wrOpa a, .wrCmd 4#64] a s.opb s.modulus polls s (callIsprime a polls s)
end

