-- ==== Sys2Proof/Laws/Decode.lean ====
section
/-! SUPPORT. The fields of an encoded transaction word, and of a command word. -/
namespace Sys2Proof

/-- Each bit of a transaction word, by the field it stands in (R75). -/
theorem portWord_getLsbD (we : Bool) (r : PortReg) (v : Word) (k : Nat) :
    (portWord we r v).getLsbD k =
      if k < 64 then v.getLsbD k else if k - 64 < 3 then (indexOfPortReg r).getLsbD (k - 64) else (BitVec.ofBool we).getLsbD (k - 67) := by
  have h := @BitVec.getLsbD_append 4 64 k (BitVec.ofBool we ++ indexOfPortReg r) v
  have h' := @BitVec.getLsbD_append 1 3 (k-64) (BitVec.ofBool we) (indexOfPortReg r)
  refine Eq.trans h ?_
  split
  · rfl
  · refine Eq.trans h' ?_
    rw [show k - 64 - 3 = k - 67 by omega]

/-- DATA of a transaction word. -/
theorem dataField_portWord (we : Bool) (r : PortReg) (v : Word) : dataField (portWord we r v) = v := by
  ext k hk
  simp only [dataField, ← BitVec.getLsbD_eq_getElem, BitVec.getLsbD_extractLsb', portWord_getLsbD]
  simp [hk]

/-- IDX of a transaction word. -/
theorem idxField_portWord (we : Bool) (r : PortReg) (v : Word) : idxField (portWord we r v) = indexOfPortReg r := by
  ext k hk
  simp only [idxField, ← BitVec.getLsbD_eq_getElem, BitVec.getLsbD_extractLsb', portWord_getLsbD]
  simp [hk]

/-- WE of a transaction word. -/
theorem weField_portWord (we : Bool) (r : PortReg) (v : Word) : weField (portWord we r v) = we := by
  simp [weField, -BitVec.getLsbD_eq_getElem, portWord_getLsbD]

theorem portRegOfIndex_indexOfPortReg (r : PortReg) : portRegOfIndex (indexOfPortReg r) = r := by
  cases r <;> rfl

theorem indexOfPortReg_portRegOfIndex (idx : BitVec 3) : indexOfPortReg (portRegOfIndex idx) = idx := by
  revert idx
  decide

/-- A command's word decodes to the command (R71, R77). -/
theorem decodeCommand_commandWord (c : Command) : decodeCommand (commandWord c) = .ok c := by
  cases c <;> rfl

theorem commandOfOpcode_opcodeOf (c : Command) : commandOfOpcode (opcodeOf c) = some c := by
  cases c <;> rfl

/-- The opcode of a command is the only one that selects it (R71). -/
theorem opcodeOf_of_commandOfOpcode {o : BitVec 4} {c : Command} (h : commandOfOpcode o = some c) : o = opcodeOf c := by
  unfold commandOfOpcode at h
  split_ifs at h <;> cases h <;> assumption

/-- A legal command word names the command of its opcode field (R77). -/
theorem commandOfOpcode_of_decodeCommand {v : Word} {c : Command} (h : decodeCommand v = .ok c) :
    commandOfOpcode (opcField v) = some c := by
  unfold decodeCommand at h
  split at h
  · cases h
  · split at h
    · rename_i c' hc
      cases h
      exact hc
    · cases h

end Sys2Proof
end

