-- ==== Sys2Proof/Laws/State.lean ====
section
/-! SUPPORT. One lemma for each field of each named update of the state and of the working registers, so that no later
proof unfolds a record update. -/
namespace Sys2Proof.Machine

/-! ## `returnRead` -/

@[simp] theorem returnRead_opa (v : Word) (s : State) : (returnRead v s).opa = s.opa := rfl
@[simp] theorem returnRead_opb (v : Word) (s : State) : (returnRead v s).opb = s.opb := rfl
@[simp] theorem returnRead_modulus (v : Word) (s : State) : (returnRead v s).modulus = s.modulus := rfl
@[simp] theorem returnRead_res (v : Word) (s : State) : (returnRead v s).res = s.res := rfl
@[simp] theorem returnRead_cmd (v : Word) (s : State) : (returnRead v s).cmd = s.cmd := rfl
@[simp] theorem returnRead_status (v : Word) (s : State) : (returnRead v s).status = s.status := rfl
@[simp] theorem returnRead_ctrl (v : Word) (s : State) : (returnRead v s).ctrl = s.ctrl := rfl
@[simp] theorem returnRead_seq (v : Word) (s : State) : (returnRead v s).seq = s.seq := rfl
@[simp] theorem returnRead_w (v : Word) (s : State) : (returnRead v s).w = s.w := rfl
@[simp] theorem returnRead_rdata (v : Word) (s : State) : (returnRead v s).rdata = v := rfl
@[simp] theorem returnRead_inputs (v : Word) (s : State) : (returnRead v s).inputs = s.inputs := rfl
@[simp] theorem returnRead_freeCount (v : Word) (s : State) : (returnRead v s).freeCount = s.freeCount := rfl

/-! ## `reject` -/

@[simp] theorem reject_opa (c : Cause) (s : State) : (reject c s).opa = s.opa := rfl
@[simp] theorem reject_opb (c : Cause) (s : State) : (reject c s).opb = s.opb := rfl
@[simp] theorem reject_modulus (c : Cause) (s : State) : (reject c s).modulus = s.modulus := rfl
@[simp] theorem reject_res (c : Cause) (s : State) : (reject c s).res = s.res := rfl
@[simp] theorem reject_cmd (c : Cause) (s : State) : (reject c s).cmd = s.cmd := rfl
@[simp] theorem reject_status (c : Cause) (s : State) : (reject c s).status = rejectFlags c s.status := rfl
@[simp] theorem reject_ctrl (c : Cause) (s : State) : (reject c s).ctrl = s.ctrl := rfl
@[simp] theorem reject_seq (c : Cause) (s : State) : (reject c s).seq = s.seq := rfl
@[simp] theorem reject_w (c : Cause) (s : State) : (reject c s).w = s.w := rfl
@[simp] theorem reject_rdata (c : Cause) (s : State) : (reject c s).rdata = s.rdata := rfl
@[simp] theorem reject_inputs (c : Cause) (s : State) : (reject c s).inputs = s.inputs := rfl
@[simp] theorem reject_freeCount (c : Cause) (s : State) : (reject c s).freeCount = s.freeCount := rfl

/-! ## `writeStatus` -/

@[simp] theorem writeStatus_opa (v : Word) (s : State) : (writeStatus v s).opa = s.opa := rfl
@[simp] theorem writeStatus_opb (v : Word) (s : State) : (writeStatus v s).opb = s.opb := rfl
@[simp] theorem writeStatus_modulus (v : Word) (s : State) : (writeStatus v s).modulus = s.modulus := rfl
@[simp] theorem writeStatus_res (v : Word) (s : State) : (writeStatus v s).res = s.res := rfl
@[simp] theorem writeStatus_cmd (v : Word) (s : State) : (writeStatus v s).cmd = s.cmd := rfl
@[simp] theorem writeStatus_status (v : Word) (s : State) : (writeStatus v s).status = clearFlags v s.status := rfl
@[simp] theorem writeStatus_ctrl (v : Word) (s : State) : (writeStatus v s).ctrl = s.ctrl := rfl
@[simp] theorem writeStatus_seq (v : Word) (s : State) : (writeStatus v s).seq = s.seq := rfl
@[simp] theorem writeStatus_w (v : Word) (s : State) : (writeStatus v s).w = s.w := rfl
@[simp] theorem writeStatus_rdata (v : Word) (s : State) : (writeStatus v s).rdata = s.rdata := rfl
@[simp] theorem writeStatus_inputs (v : Word) (s : State) : (writeStatus v s).inputs = s.inputs := rfl
@[simp] theorem writeStatus_freeCount (v : Word) (s : State) : (writeStatus v s).freeCount = s.freeCount := rfl

/-! ## `accept` -/

@[simp] theorem accept_opa (v : Word) (s : State) : (accept v s).opa = s.opa := rfl
@[simp] theorem accept_opb (v : Word) (s : State) : (accept v s).opb = s.opb := rfl
@[simp] theorem accept_modulus (v : Word) (s : State) : (accept v s).modulus = s.modulus := rfl
@[simp] theorem accept_res (v : Word) (s : State) : (accept v s).res = s.res := rfl
@[simp] theorem accept_cmd (v : Word) (s : State) : (accept v s).cmd = v := rfl
@[simp] theorem accept_status (v : Word) (s : State) : (accept v s).status = acceptFlags s.status := rfl
@[simp] theorem accept_ctrl (v : Word) (s : State) : (accept v s).ctrl = s.ctrl := rfl
@[simp] theorem accept_seq (v : Word) (s : State) : (accept v s).seq = .run .load := rfl
@[simp] theorem accept_w (v : Word) (s : State) : (accept v s).w = snapshot v s := rfl
@[simp] theorem accept_rdata (v : Word) (s : State) : (accept v s).rdata = s.rdata := rfl
@[simp] theorem accept_inputs (v : Word) (s : State) : (accept v s).inputs = s.inputs := rfl
@[simp] theorem accept_freeCount (v : Word) (s : State) : (accept v s).freeCount = s.freeCount := rfl

/-! ## `complete` -/

@[simp] theorem complete_opa (v : Word) (s : State) : (complete v s).opa = s.opa := rfl
@[simp] theorem complete_opb (v : Word) (s : State) : (complete v s).opb = s.opb := rfl
@[simp] theorem complete_modulus (v : Word) (s : State) : (complete v s).modulus = s.modulus := rfl
@[simp] theorem complete_res (v : Word) (s : State) : (complete v s).res = v := rfl
@[simp] theorem complete_cmd (v : Word) (s : State) : (complete v s).cmd = s.cmd := rfl
@[simp] theorem complete_status (v : Word) (s : State) : (complete v s).status = completeFlags s.status := rfl
@[simp] theorem complete_ctrl (v : Word) (s : State) : (complete v s).ctrl = s.ctrl := rfl
@[simp] theorem complete_seq (v : Word) (s : State) : (complete v s).seq = .idle := rfl
@[simp] theorem complete_w (v : Word) (s : State) : (complete v s).w = s.w := rfl
@[simp] theorem complete_rdata (v : Word) (s : State) : (complete v s).rdata = s.rdata := rfl
@[simp] theorem complete_inputs (v : Word) (s : State) : (complete v s).inputs = s.inputs := rfl
@[simp] theorem complete_freeCount (v : Word) (s : State) : (complete v s).freeCount = s.freeCount := rfl

/-! ## `microStep` -/

@[simp] theorem microStep_opa (w : Working) (pos : MicroPos) (s : State) : (microStep w pos s).opa = s.opa := rfl
@[simp] theorem microStep_opb (w : Working) (pos : MicroPos) (s : State) : (microStep w pos s).opb = s.opb := rfl
@[simp] theorem microStep_modulus (w : Working) (pos : MicroPos) (s : State) : (microStep w pos s).modulus = s.modulus := rfl
@[simp] theorem microStep_res (w : Working) (pos : MicroPos) (s : State) : (microStep w pos s).res = s.res := rfl
@[simp] theorem microStep_cmd (w : Working) (pos : MicroPos) (s : State) : (microStep w pos s).cmd = s.cmd := rfl
@[simp] theorem microStep_status (w : Working) (pos : MicroPos) (s : State) : (microStep w pos s).status = s.status := rfl
@[simp] theorem microStep_ctrl (w : Working) (pos : MicroPos) (s : State) : (microStep w pos s).ctrl = s.ctrl := rfl
@[simp] theorem microStep_seq (w : Working) (pos : MicroPos) (s : State) : (microStep w pos s).seq = .run pos := rfl
@[simp] theorem microStep_w (w : Working) (pos : MicroPos) (s : State) : (microStep w pos s).w = w := rfl
@[simp] theorem microStep_rdata (w : Working) (pos : MicroPos) (s : State) : (microStep w pos s).rdata = s.rdata := rfl
@[simp] theorem microStep_inputs (w : Working) (pos : MicroPos) (s : State) : (microStep w pos s).inputs = s.inputs := rfl
@[simp] theorem microStep_freeCount (w : Working) (pos : MicroPos) (s : State) : (microStep w pos s).freeCount = s.freeCount := rfl

/-! ## `placeNext` -/

@[simp] theorem placeNext_opa (nbits n : Nat) (s : State) : (placeNext nbits n s).opa = s.opa := rfl
@[simp] theorem placeNext_opb (nbits n : Nat) (s : State) : (placeNext nbits n s).opb = s.opb := rfl
@[simp] theorem placeNext_modulus (nbits n : Nat) (s : State) : (placeNext nbits n s).modulus = s.modulus := rfl
@[simp] theorem placeNext_res (nbits n : Nat) (s : State) : (placeNext nbits n s).res = s.res := rfl
@[simp] theorem placeNext_cmd (nbits n : Nat) (s : State) : (placeNext nbits n s).cmd = s.cmd := rfl
@[simp] theorem placeNext_status (nbits n : Nat) (s : State) : (placeNext nbits n s).status = s.status := rfl
@[simp] theorem placeNext_ctrl (nbits n : Nat) (s : State) : (placeNext nbits n s).ctrl = s.ctrl := rfl
@[simp] theorem placeNext_seq (nbits n : Nat) (s : State) : (placeNext nbits n s).seq = s.seq := rfl
@[simp] theorem placeNext_w (nbits n : Nat) (s : State) : (placeNext nbits n s).w = s.w := rfl
@[simp] theorem placeNext_rdata (nbits n : Nat) (s : State) : (placeNext nbits n s).rdata = s.rdata := rfl
@[simp] theorem placeNext_inputs (nbits n : Nat) (s : State) : (placeNext nbits n s).inputs = eventOfTable nbits n :: s.inputs := rfl
@[simp] theorem placeNext_freeCount (nbits n : Nat) (s : State) : (placeNext nbits n s).freeCount = s.freeCount := rfl

/-! ## `resetBlock` -/

@[simp] theorem resetBlock_opa (s : State) : (resetBlock s).opa = 0#64 := rfl
@[simp] theorem resetBlock_opb (s : State) : (resetBlock s).opb = 0#64 := rfl
@[simp] theorem resetBlock_modulus (s : State) : (resetBlock s).modulus = 0#64 := rfl
@[simp] theorem resetBlock_res (s : State) : (resetBlock s).res = 0#64 := rfl
@[simp] theorem resetBlock_cmd (s : State) : (resetBlock s).cmd = 0#64 := rfl
@[simp] theorem resetBlock_status (s : State) : (resetBlock s).status = ⟨false, false, false, .none⟩ := rfl
@[simp] theorem resetBlock_ctrl (s : State) : (resetBlock s).ctrl = ⟨false, false⟩ := rfl
@[simp] theorem resetBlock_seq (s : State) : (resetBlock s).seq = .idle := rfl
@[simp] theorem resetBlock_w (s : State) : (resetBlock s).w = freeWorking s.freeCount := rfl
@[simp] theorem resetBlock_rdata (s : State) : (resetBlock s).rdata = s.rdata := rfl
@[simp] theorem resetBlock_inputs (s : State) : (resetBlock s).inputs = s.inputs := rfl
@[simp] theorem resetBlock_freeCount (s : State) : (resetBlock s).freeCount = s.freeCount + 17 := rfl

/-! ## Flags -/

@[simp] theorem rejectFlags_busy (c : Cause) (st : Status) : (rejectFlags c st).busy = st.busy := rfl
@[simp] theorem rejectFlags_done (c : Cause) (st : Status) : (rejectFlags c st).done = st.done := rfl
@[simp] theorem rejectFlags_err (c : Cause) (st : Status) : (rejectFlags c st).err = true := rfl
@[simp] theorem rejectFlags_cause (c : Cause) (st : Status) : (rejectFlags c st).cause = c := rfl

@[simp] theorem acceptFlags_busy (st : Status) : (acceptFlags st).busy = true := rfl
@[simp] theorem acceptFlags_done (st : Status) : (acceptFlags st).done = false := rfl
@[simp] theorem acceptFlags_err (st : Status) : (acceptFlags st).err = st.err := rfl
@[simp] theorem acceptFlags_cause (st : Status) : (acceptFlags st).cause = st.cause := rfl

@[simp] theorem completeFlags_busy (st : Status) : (completeFlags st).busy = false := rfl
@[simp] theorem completeFlags_done (st : Status) : (completeFlags st).done = true := rfl
@[simp] theorem completeFlags_err (st : Status) : (completeFlags st).err = st.err := rfl
@[simp] theorem completeFlags_cause (st : Status) : (completeFlags st).cause = st.cause := rfl

@[simp] theorem clearFlags_busy (v : Word) (st : Status) : (clearFlags v st).busy = st.busy := rfl
@[simp] theorem clearFlags_done (v : Word) (st : Status) : (clearFlags v st).done = (if v.getLsbD 1 then false else st.done) := rfl
@[simp] theorem clearFlags_err (v : Word) (st : Status) : (clearFlags v st).err = (if v.getLsbD 2 then false else st.err) := rfl
@[simp] theorem clearFlags_cause (v : Word) (st : Status) : (clearFlags v st).cause = (if v.getLsbD 2 then .none else st.cause) := rfl

/-! ## Working registers that an update leaves alone -/

@[simp] theorem mulmodLoad_a (a b m : Word) (w : Working) : (mulmodLoad a b m w).a = w.a := rfl
@[simp] theorem mulmodLoad_b (a b m : Word) (w : Working) : (mulmodLoad a b m w).b = w.b := rfl
@[simp] theorem mulmodLoad_m (a b m : Word) (w : Working) : (mulmodLoad a b m w).m = w.m := rfl
@[simp] theorem mulmodLoad_opc (a b m : Word) (w : Working) : (mulmodLoad a b m w).opc = w.opc := rfl
@[simp] theorem mulmodLoad_pr (a b m : Word) (w : Working) : (mulmodLoad a b m w).pr = w.pr := rfl
@[simp] theorem mulmodLoad_pb (a b m : Word) (w : Working) : (mulmodLoad a b m w).pb = w.pb := rfl
@[simp] theorem mulmodLoad_pe (a b m : Word) (w : Working) : (mulmodLoad a b m w).pe = w.pe := rfl
@[simp] theorem mulmodLoad_sr (a b m : Word) (w : Working) : (mulmodLoad a b m w).sr = w.sr := rfl
@[simp] theorem mulmodLoad_sq (a b m : Word) (w : Working) : (mulmodLoad a b m w).sq = w.sq := rfl
@[simp] theorem mulmodLoad_sb (a b m : Word) (w : Working) : (mulmodLoad a b m w).sb = w.sb := rfl
@[simp] theorem mulmodLoad_lim (a b m : Word) (w : Working) : (mulmodLoad a b m w).lim = w.lim := rfl
@[simp] theorem mulmodLoad_d (a b m : Word) (w : Working) : (mulmodLoad a b m w).d = w.d := rfl

@[simp] theorem mulmodAccumulate_a (m : Word) (w : Working) : (mulmodAccumulate m w).a = w.a := by
  unfold mulmodAccumulate; split <;> rfl
@[simp] theorem mulmodAccumulate_b (m : Word) (w : Working) : (mulmodAccumulate m w).b = w.b := by
  unfold mulmodAccumulate; split <;> rfl
@[simp] theorem mulmodAccumulate_m (m : Word) (w : Working) : (mulmodAccumulate m w).m = w.m := by
  unfold mulmodAccumulate; split <;> rfl
@[simp] theorem mulmodAccumulate_opc (m : Word) (w : Working) : (mulmodAccumulate m w).opc = w.opc := by
  unfold mulmodAccumulate; split <;> rfl
@[simp] theorem mulmodAccumulate_c (m : Word) (w : Working) : (mulmodAccumulate m w).c = w.c := by
  unfold mulmodAccumulate; split <;> rfl
@[simp] theorem mulmodAccumulate_t (m : Word) (w : Working) : (mulmodAccumulate m w).t = w.t := by
  unfold mulmodAccumulate; split <;> rfl
@[simp] theorem mulmodAccumulate_k (m : Word) (w : Working) : (mulmodAccumulate m w).k = w.k := by
  unfold mulmodAccumulate; split <;> rfl
@[simp] theorem mulmodAccumulate_pr (m : Word) (w : Working) : (mulmodAccumulate m w).pr = w.pr := by
  unfold mulmodAccumulate; split <;> rfl
@[simp] theorem mulmodAccumulate_pb (m : Word) (w : Working) : (mulmodAccumulate m w).pb = w.pb := by
  unfold mulmodAccumulate; split <;> rfl
@[simp] theorem mulmodAccumulate_pe (m : Word) (w : Working) : (mulmodAccumulate m w).pe = w.pe := by
  unfold mulmodAccumulate; split <;> rfl
@[simp] theorem mulmodAccumulate_sr (m : Word) (w : Working) : (mulmodAccumulate m w).sr = w.sr := by
  unfold mulmodAccumulate; split <;> rfl
@[simp] theorem mulmodAccumulate_sq (m : Word) (w : Working) : (mulmodAccumulate m w).sq = w.sq := by
  unfold mulmodAccumulate; split <;> rfl
@[simp] theorem mulmodAccumulate_sb (m : Word) (w : Working) : (mulmodAccumulate m w).sb = w.sb := by
  unfold mulmodAccumulate; split <;> rfl
@[simp] theorem mulmodAccumulate_lim (m : Word) (w : Working) : (mulmodAccumulate m w).lim = w.lim := by
  unfold mulmodAccumulate; split <;> rfl
@[simp] theorem mulmodAccumulate_d (m : Word) (w : Working) : (mulmodAccumulate m w).d = w.d := by
  unfold mulmodAccumulate; split <;> rfl

@[simp] theorem mulmodShift_a (w : Working) : (mulmodShift w).a = w.a := rfl
@[simp] theorem mulmodShift_b (w : Working) : (mulmodShift w).b = w.b := rfl
@[simp] theorem mulmodShift_m (w : Working) : (mulmodShift w).m = w.m := rfl
@[simp] theorem mulmodShift_opc (w : Working) : (mulmodShift w).opc = w.opc := rfl
@[simp] theorem mulmodShift_c (w : Working) : (mulmodShift w).c = w.c := rfl
@[simp] theorem mulmodShift_acc (w : Working) : (mulmodShift w).acc = w.acc := rfl
@[simp] theorem mulmodShift_t (w : Working) : (mulmodShift w).t = w.t := rfl
@[simp] theorem mulmodShift_pr (w : Working) : (mulmodShift w).pr = w.pr := rfl
@[simp] theorem mulmodShift_pb (w : Working) : (mulmodShift w).pb = w.pb := rfl
@[simp] theorem mulmodShift_pe (w : Working) : (mulmodShift w).pe = w.pe := rfl
@[simp] theorem mulmodShift_sr (w : Working) : (mulmodShift w).sr = w.sr := rfl
@[simp] theorem mulmodShift_sq (w : Working) : (mulmodShift w).sq = w.sq := rfl
@[simp] theorem mulmodShift_sb (w : Working) : (mulmodShift w).sb = w.sb := rfl
@[simp] theorem mulmodShift_lim (w : Working) : (mulmodShift w).lim = w.lim := rfl
@[simp] theorem mulmodShift_d (w : Working) : (mulmodShift w).d = w.d := rfl
@[simp] theorem mulmodShift_rm (w : Working) : (mulmodShift w).rm = w.rm := rfl

@[simp] theorem mulmodDouble_a (m : Word) (w : Working) : (mulmodDouble m w).a = w.a := by
  unfold mulmodDouble; split <;> rfl
@[simp] theorem mulmodDouble_b (m : Word) (w : Working) : (mulmodDouble m w).b = w.b := by
  unfold mulmodDouble; split <;> rfl
@[simp] theorem mulmodDouble_m (m : Word) (w : Working) : (mulmodDouble m w).m = w.m := by
  unfold mulmodDouble; split <;> rfl
@[simp] theorem mulmodDouble_opc (m : Word) (w : Working) : (mulmodDouble m w).opc = w.opc := by
  unfold mulmodDouble; split <;> rfl
@[simp] theorem mulmodDouble_c (m : Word) (w : Working) : (mulmodDouble m w).c = w.c := by
  unfold mulmodDouble; split <;> rfl
@[simp] theorem mulmodDouble_acc (m : Word) (w : Working) : (mulmodDouble m w).acc = w.acc := by
  unfold mulmodDouble; split <;> rfl
@[simp] theorem mulmodDouble_k (m : Word) (w : Working) : (mulmodDouble m w).k = w.k := by
  unfold mulmodDouble; split <;> rfl
@[simp] theorem mulmodDouble_pr (m : Word) (w : Working) : (mulmodDouble m w).pr = w.pr := by
  unfold mulmodDouble; split <;> rfl
@[simp] theorem mulmodDouble_pb (m : Word) (w : Working) : (mulmodDouble m w).pb = w.pb := by
  unfold mulmodDouble; split <;> rfl
@[simp] theorem mulmodDouble_pe (m : Word) (w : Working) : (mulmodDouble m w).pe = w.pe := by
  unfold mulmodDouble; split <;> rfl
@[simp] theorem mulmodDouble_sr (m : Word) (w : Working) : (mulmodDouble m w).sr = w.sr := by
  unfold mulmodDouble; split <;> rfl
@[simp] theorem mulmodDouble_sq (m : Word) (w : Working) : (mulmodDouble m w).sq = w.sq := by
  unfold mulmodDouble; split <;> rfl
@[simp] theorem mulmodDouble_sb (m : Word) (w : Working) : (mulmodDouble m w).sb = w.sb := by
  unfold mulmodDouble; split <;> rfl
@[simp] theorem mulmodDouble_lim (m : Word) (w : Working) : (mulmodDouble m w).lim = w.lim := by
  unfold mulmodDouble; split <;> rfl
@[simp] theorem mulmodDouble_d (m : Word) (w : Working) : (mulmodDouble m w).d = w.d := by
  unfold mulmodDouble; split <;> rfl

@[simp] theorem mulmodPass_a (m : Word) (w : Working) : (mulmodPass m w).a = w.a := by
  simp [mulmodPass]
@[simp] theorem mulmodPass_b (m : Word) (w : Working) : (mulmodPass m w).b = w.b := by
  simp [mulmodPass]
@[simp] theorem mulmodPass_m (m : Word) (w : Working) : (mulmodPass m w).m = w.m := by
  simp [mulmodPass]
@[simp] theorem mulmodPass_opc (m : Word) (w : Working) : (mulmodPass m w).opc = w.opc := by
  simp [mulmodPass]
@[simp] theorem mulmodPass_c (m : Word) (w : Working) : (mulmodPass m w).c = w.c := by
  simp [mulmodPass]
@[simp] theorem mulmodPass_pr (m : Word) (w : Working) : (mulmodPass m w).pr = w.pr := by
  simp [mulmodPass]
@[simp] theorem mulmodPass_pb (m : Word) (w : Working) : (mulmodPass m w).pb = w.pb := by
  simp [mulmodPass]
@[simp] theorem mulmodPass_pe (m : Word) (w : Working) : (mulmodPass m w).pe = w.pe := by
  simp [mulmodPass]
@[simp] theorem mulmodPass_sr (m : Word) (w : Working) : (mulmodPass m w).sr = w.sr := by
  simp [mulmodPass]
@[simp] theorem mulmodPass_sq (m : Word) (w : Working) : (mulmodPass m w).sq = w.sq := by
  simp [mulmodPass]
@[simp] theorem mulmodPass_sb (m : Word) (w : Working) : (mulmodPass m w).sb = w.sb := by
  simp [mulmodPass]
@[simp] theorem mulmodPass_lim (m : Word) (w : Working) : (mulmodPass m w).lim = w.lim := by
  simp [mulmodPass]
@[simp] theorem mulmodPass_d (m : Word) (w : Working) : (mulmodPass m w).d = w.d := by
  simp [mulmodPass]

@[simp] theorem powmodShift_a (w : Working) : (powmodShift w).a = w.a := rfl
@[simp] theorem powmodShift_b (w : Working) : (powmodShift w).b = w.b := rfl
@[simp] theorem powmodShift_m (w : Working) : (powmodShift w).m = w.m := rfl
@[simp] theorem powmodShift_opc (w : Working) : (powmodShift w).opc = w.opc := rfl
@[simp] theorem powmodShift_c (w : Working) : (powmodShift w).c = w.c := rfl
@[simp] theorem powmodShift_acc (w : Working) : (powmodShift w).acc = w.acc := rfl
@[simp] theorem powmodShift_t (w : Working) : (powmodShift w).t = w.t := rfl
@[simp] theorem powmodShift_k (w : Working) : (powmodShift w).k = w.k := rfl
@[simp] theorem powmodShift_pr (w : Working) : (powmodShift w).pr = w.pr := rfl
@[simp] theorem powmodShift_pb (w : Working) : (powmodShift w).pb = w.pb := rfl
@[simp] theorem powmodShift_sr (w : Working) : (powmodShift w).sr = w.sr := rfl
@[simp] theorem powmodShift_sq (w : Working) : (powmodShift w).sq = w.sq := rfl
@[simp] theorem powmodShift_sb (w : Working) : (powmodShift w).sb = w.sb := rfl
@[simp] theorem powmodShift_lim (w : Working) : (powmodShift w).lim = w.lim := rfl
@[simp] theorem powmodShift_d (w : Working) : (powmodShift w).d = w.d := rfl
@[simp] theorem powmodShift_rm (w : Working) : (powmodShift w).rm = w.rm := rfl

@[simp] theorem isqrtLoad_a (x : Word) (w : Working) : (isqrtLoad x w).a = w.a := rfl
@[simp] theorem isqrtLoad_b (x : Word) (w : Working) : (isqrtLoad x w).b = w.b := rfl
@[simp] theorem isqrtLoad_m (x : Word) (w : Working) : (isqrtLoad x w).m = w.m := rfl
@[simp] theorem isqrtLoad_opc (x : Word) (w : Working) : (isqrtLoad x w).opc = w.opc := rfl
@[simp] theorem isqrtLoad_c (x : Word) (w : Working) : (isqrtLoad x w).c = w.c := rfl
@[simp] theorem isqrtLoad_acc (x : Word) (w : Working) : (isqrtLoad x w).acc = w.acc := rfl
@[simp] theorem isqrtLoad_t (x : Word) (w : Working) : (isqrtLoad x w).t = w.t := rfl
@[simp] theorem isqrtLoad_k (x : Word) (w : Working) : (isqrtLoad x w).k = w.k := rfl
@[simp] theorem isqrtLoad_pr (x : Word) (w : Working) : (isqrtLoad x w).pr = w.pr := rfl
@[simp] theorem isqrtLoad_pb (x : Word) (w : Working) : (isqrtLoad x w).pb = w.pb := rfl
@[simp] theorem isqrtLoad_pe (x : Word) (w : Working) : (isqrtLoad x w).pe = w.pe := rfl
@[simp] theorem isqrtLoad_lim (x : Word) (w : Working) : (isqrtLoad x w).lim = w.lim := rfl
@[simp] theorem isqrtLoad_d (x : Word) (w : Working) : (isqrtLoad x w).d = w.d := rfl
@[simp] theorem isqrtLoad_rm (x : Word) (w : Working) : (isqrtLoad x w).rm = w.rm := rfl

@[simp] theorem isqrtPass_a (w : Working) : (isqrtPass w).a = w.a := by
  unfold isqrtPass; split <;> rfl
@[simp] theorem isqrtPass_b (w : Working) : (isqrtPass w).b = w.b := by
  unfold isqrtPass; split <;> rfl
@[simp] theorem isqrtPass_m (w : Working) : (isqrtPass w).m = w.m := by
  unfold isqrtPass; split <;> rfl
@[simp] theorem isqrtPass_opc (w : Working) : (isqrtPass w).opc = w.opc := by
  unfold isqrtPass; split <;> rfl
@[simp] theorem isqrtPass_c (w : Working) : (isqrtPass w).c = w.c := by
  unfold isqrtPass; split <;> rfl
@[simp] theorem isqrtPass_acc (w : Working) : (isqrtPass w).acc = w.acc := by
  unfold isqrtPass; split <;> rfl
@[simp] theorem isqrtPass_t (w : Working) : (isqrtPass w).t = w.t := by
  unfold isqrtPass; split <;> rfl
@[simp] theorem isqrtPass_k (w : Working) : (isqrtPass w).k = w.k := by
  unfold isqrtPass; split <;> rfl
@[simp] theorem isqrtPass_pr (w : Working) : (isqrtPass w).pr = w.pr := by
  unfold isqrtPass; split <;> rfl
@[simp] theorem isqrtPass_pb (w : Working) : (isqrtPass w).pb = w.pb := by
  unfold isqrtPass; split <;> rfl
@[simp] theorem isqrtPass_pe (w : Working) : (isqrtPass w).pe = w.pe := by
  unfold isqrtPass; split <;> rfl
@[simp] theorem isqrtPass_lim (w : Working) : (isqrtPass w).lim = w.lim := by
  unfold isqrtPass; split <;> rfl
@[simp] theorem isqrtPass_d (w : Working) : (isqrtPass w).d = w.d := by
  unfold isqrtPass; split <;> rfl
@[simp] theorem isqrtPass_rm (w : Working) : (isqrtPass w).rm = w.rm := by
  unfold isqrtPass; split <;> rfl

@[simp] theorem isprimeDivide_a (w : Working) : (isprimeDivide w).a = w.a := rfl
@[simp] theorem isprimeDivide_b (w : Working) : (isprimeDivide w).b = w.b := rfl
@[simp] theorem isprimeDivide_m (w : Working) : (isprimeDivide w).m = w.m := rfl
@[simp] theorem isprimeDivide_opc (w : Working) : (isprimeDivide w).opc = w.opc := rfl
@[simp] theorem isprimeDivide_c (w : Working) : (isprimeDivide w).c = w.c := rfl
@[simp] theorem isprimeDivide_acc (w : Working) : (isprimeDivide w).acc = w.acc := rfl
@[simp] theorem isprimeDivide_t (w : Working) : (isprimeDivide w).t = w.t := rfl
@[simp] theorem isprimeDivide_k (w : Working) : (isprimeDivide w).k = w.k := rfl
@[simp] theorem isprimeDivide_pr (w : Working) : (isprimeDivide w).pr = w.pr := rfl
@[simp] theorem isprimeDivide_pb (w : Working) : (isprimeDivide w).pb = w.pb := rfl
@[simp] theorem isprimeDivide_pe (w : Working) : (isprimeDivide w).pe = w.pe := rfl
@[simp] theorem isprimeDivide_sr (w : Working) : (isprimeDivide w).sr = w.sr := rfl
@[simp] theorem isprimeDivide_sq (w : Working) : (isprimeDivide w).sq = w.sq := rfl
@[simp] theorem isprimeDivide_sb (w : Working) : (isprimeDivide w).sb = w.sb := rfl
@[simp] theorem isprimeDivide_lim (w : Working) : (isprimeDivide w).lim = w.lim := rfl
@[simp] theorem isprimeDivide_d (w : Working) : (isprimeDivide w).d = w.d := rfl

@[simp] theorem isprimeNext_a (w : Working) : (isprimeNext w).a = w.a := rfl
@[simp] theorem isprimeNext_b (w : Working) : (isprimeNext w).b = w.b := rfl
@[simp] theorem isprimeNext_m (w : Working) : (isprimeNext w).m = w.m := rfl
@[simp] theorem isprimeNext_opc (w : Working) : (isprimeNext w).opc = w.opc := rfl
@[simp] theorem isprimeNext_c (w : Working) : (isprimeNext w).c = w.c := rfl
@[simp] theorem isprimeNext_acc (w : Working) : (isprimeNext w).acc = w.acc := rfl
@[simp] theorem isprimeNext_t (w : Working) : (isprimeNext w).t = w.t := rfl
@[simp] theorem isprimeNext_k (w : Working) : (isprimeNext w).k = w.k := rfl
@[simp] theorem isprimeNext_pr (w : Working) : (isprimeNext w).pr = w.pr := rfl
@[simp] theorem isprimeNext_pb (w : Working) : (isprimeNext w).pb = w.pb := rfl
@[simp] theorem isprimeNext_pe (w : Working) : (isprimeNext w).pe = w.pe := rfl
@[simp] theorem isprimeNext_sr (w : Working) : (isprimeNext w).sr = w.sr := rfl
@[simp] theorem isprimeNext_sq (w : Working) : (isprimeNext w).sq = w.sq := rfl
@[simp] theorem isprimeNext_sb (w : Working) : (isprimeNext w).sb = w.sb := rfl
@[simp] theorem isprimeNext_lim (w : Working) : (isprimeNext w).lim = w.lim := rfl
@[simp] theorem isprimeNext_rm (w : Working) : (isprimeNext w).rm = w.rm := rfl

/-! ## Working registers that a pass changes -/

@[simp] theorem mulmodShift_k (w : Working) : (mulmodShift w).k = w.k >>> 1 := rfl

/-- ACC after a pass is ACC after its accumulation (R111). -/
theorem mulmodPass_acc (m : Word) (w : Working) : (mulmodPass m w).acc = (mulmodAccumulate m w).acc := by
  simp [mulmodPass]

/-- K after a pass has moved right by one (R111). -/
theorem mulmodPass_k (m : Word) (w : Working) : (mulmodPass m w).k = w.k >>> 1 := by
  simp [mulmodPass]

/-- T after a pass: doubled, unless no bit of K is left (R111). -/
theorem mulmodPass_t (m : Word) (w : Working) :
    (mulmodPass m w).t =
      if w.k >>> 1 = 0#64 then w.t else BitVec.ofNat 64 (addmodWith w.c.toNat w.t.toNat w.t.toNat m.toNat) := by
  unfold mulmodPass mulmodDouble
  simp only [mulmodShift_k, mulmodAccumulate_k]
  split <;> simp

/-- ACC after the accumulation: T added where the lowest bit of K is 1 (R111). -/
theorem mulmodAccumulate_acc (m : Word) (w : Working) :
    (mulmodAccumulate m w).acc =
      if w.k.getLsbD 0 then BitVec.ofNat 64 (addmodWith w.c.toNat w.acc.toNat w.t.toNat m.toNat) else w.acc := by
  unfold mulmodAccumulate
  split <;> rfl

/-- SB after a pass of the square root: the next lower power of four, or 0 (R131). -/
theorem isqrtPass_sb (w : Working) : (isqrtPass w).sb = w.sb >>> 2 := by
  unfold isqrtPass
  split <;> rfl

/-- SQ after a pass of the square root (R131). -/
theorem isqrtPass_sq (w : Working) :
    (isqrtPass w).sq = if w.sq.toNat + w.sb.toNat ≤ w.sr.toNat then (w.sq >>> 1) + w.sb else w.sq >>> 1 := by
  unfold isqrtPass
  split <;> rfl

/-- SR after a pass of the square root (R131). -/
theorem isqrtPass_sr (w : Working) :
    (isqrtPass w).sr = if w.sq.toNat + w.sb.toNat ≤ w.sr.toNat then w.sr - (w.sq + w.sb) else w.sr := by
  unfold isqrtPass
  split <;> rfl

end Sys2Proof.Machine
end

