-- ==== Sys2Proof/Laws/Ops.lean ====
section
/-! SUPPORT. For each shared operation, and for a step of the unit and of the machine, everything it can do, said once. -/
namespace Sys2Proof.Machine

/-! ## Submission -/

/-- The five outcomes of a submission, in their order of priority (R196). -/
theorem submitCommand_cases (v : Word) (s : State) :
    (s.status.err = true ∧ submitCommand v s = s) ∨
    (s.status.err = false ∧ s.status.busy = true ∧ submitCommand v s = reject .cmdWhileBusy s) ∨
    (s.status.err = false ∧ s.status.busy = false ∧ (∃ e, decodeCommand v = .error e) ∧
      submitCommand v s = reject .illegalCmd s) ∨
    (∃ c, s.status.err = false ∧ s.status.busy = false ∧ decodeCommand v = .ok c ∧ needsModulus c = true ∧
      s.modulus = 0#64 ∧ submitCommand v s = reject .modZero s) ∨
    (∃ c, s.status.err = false ∧ s.status.busy = false ∧ decodeCommand v = .ok c ∧
      (needsModulus c = true → s.modulus ≠ 0#64) ∧ submitCommand v s = accept v s) := by
  unfold submitCommand
  by_cases herr : s.status.err = true
  · exact .inl ⟨herr, by simp [herr]⟩
  · by_cases hbusy : s.status.busy = true
    · exact .inr (.inl ⟨by simpa using herr, hbusy, by simp [herr, hbusy]⟩)
    · cases hd : decodeCommand v with
      | error e => exact .inr (.inr (.inl ⟨by simpa using herr, by simpa using hbusy, ⟨e, rfl⟩, by simp [herr, hbusy]⟩))
      | ok c =>
        by_cases hm : needsModulus c = true ∧ s.modulus = 0#64
        · exact .inr (.inr (.inr (.inl ⟨c, by simpa using herr, by simpa using hbusy, rfl, hm.1, hm.2,
            by simp [herr, hbusy, hm.1, hm.2]⟩)))
        · refine .inr (.inr (.inr (.inr ⟨c, by simpa using herr, by simpa using hbusy, rfl, fun h h0 => hm ⟨h, h0⟩, ?_⟩)))
          have : ¬ (needsModulus c && s.modulus == 0#64) = true := by simpa using hm
          simp [herr, hbusy, this]

/-- A write of CTRL resets the block or sets the enables (R157). -/
theorem writeCtrl_cases (v : Word) (s : State) :
    (v.getLsbD 2 = true ∧ writeCtrl v s = resetBlock s) ∨
    (v.getLsbD 2 = false ∧ writeCtrl v s = { s with ctrl := ⟨v.getLsbD 0, v.getLsbD 1⟩ }) := by
  unfold writeCtrl
  cases h : v.getLsbD 2 <;> simp

/-! ## The unit -/

/-- Two sets of working registers hold the same snapshot (R153). -/
abbrev SameSnapshot (w w' : Working) : Prop := w'.a = w.a ∧ w'.b = w.b ∧ w'.m = w.m ∧ w'.opc = w.opc

/-- Entering a mulmod is a micro-step that keeps the snapshot. -/
theorem mulmodEnter_cases {use : MulUse} {a b : Word} {s t : State} (h : mulmodEnter use a b s = .next t) :
    s.w.m ≠ 0#64 ∧ t = microStep (mulmodLoad a b s.w.m s.w) (.mulLoop use) s := by
  unfold mulmodEnter at h
  split at h
  · cases h
  · exact ⟨‹_›, by cases h; rfl⟩

/-- What a step of the unit can do when it answers a next state: nothing where it is not enabled, a micro-step that keeps
the snapshot, or the completion (R155). -/
theorem unitStep_cases {s t : State} (h : unitStep s = .next t) :
    (s.seq = .idle ∧ t = s) ∨
    (s.seq ≠ .idle ∧ ∃ w pos, SameSnapshot s.w w ∧ t = microStep w pos s) ∨
    (∃ v, s.seq = .run (.ready v) ∧ t = complete v s) := by
  unfold unitStep at h
  cases hseq : s.seq with
  | idle => rw [hseq] at h; cases h; exact .inl ⟨rfl, rfl⟩
  | run pos =>
    rw [hseq] at h
    cases pos with
    | ready v => cases h; exact .inr (.inr ⟨v, rfl, rfl⟩)
    | load =>
      refine .inr (.inl ⟨by simp, ?_⟩)
      simp only [startOperation] at h
      split at h
      · obtain ⟨-, rfl⟩ := mulmodEnter_cases h; exact ⟨_, _, by simp [SameSnapshot], rfl⟩
      · cases h; exact ⟨_, _, by simp [SameSnapshot], rfl⟩
      · cases h; exact ⟨_, _, by simp [SameSnapshot], rfl⟩
      · simp only [isprimeStart, isqrtEnter] at h
        split_ifs at h <;> cases h <;> exact ⟨_, _, by simp [SameSnapshot], rfl⟩
      · cases h
    | mulLoop use =>
      refine .inr (.inl ⟨by simp, ?_⟩)
      simp only [mulmodLoopStep] at h
      split_ifs at h <;> cases h
      · cases use <;> exact ⟨_, _, by simp [SameSnapshot], rfl⟩
      · exact ⟨_, _, by simp [SameSnapshot], rfl⟩
    | powLoop =>
      refine .inr (.inl ⟨by simp, ?_⟩)
      simp only [powmodLoopStep] at h
      split_ifs at h
      · cases h; exact ⟨_, _, by simp [SameSnapshot], rfl⟩
      · obtain ⟨-, rfl⟩ := mulmodEnter_cases h; exact ⟨_, _, by simp [SameSnapshot], rfl⟩
      · cases h; exact ⟨_, _, by simp [SameSnapshot], rfl⟩
    | powShift =>
      refine .inr (.inl ⟨by simp, ?_⟩)
      simp only [powmodShiftStep] at h
      split_ifs at h
      · cases h; exact ⟨_, _, by simp [SameSnapshot], rfl⟩
      · obtain ⟨-, rfl⟩ := mulmodEnter_cases h; exact ⟨_, _, by simp [SameSnapshot], rfl⟩
    | sqrtLoop use =>
      refine .inr (.inl ⟨by simp, ?_⟩)
      simp only [isqrtLoopStep] at h
      split_ifs at h <;> cases h
      · cases use <;> exact ⟨_, _, by simp [SameSnapshot], rfl⟩
      · exact ⟨_, _, by simp [SameSnapshot], rfl⟩
    | primeLoop =>
      refine .inr (.inl ⟨by simp, ?_⟩)
      simp only [isprimeLoopStep] at h
      split_ifs at h <;> cases h <;> exact ⟨_, _, by simp [SameSnapshot], rfl⟩

/-! ## The machine -/

/-- A step is a step of the unit, or the first input's action (R58). -/
theorem step_cases (s : State) :
    (s.inputs = [] ∧ step s = unitStep s) ∨
    (∃ e rest, s.inputs = e :: rest ∧ step s = perform e { s with inputs := rest }) := by
  unfold step takeNext
  cases h : s.inputs with
  | nil => exact .inl ⟨rfl, rfl⟩
  | cons e rest => exact .inr ⟨e, rest, rfl, rfl⟩

/-- What an event does when it answers a next state. -/
theorem perform_cases {e : Event} {s t : State} (h : perform e s = .next t) :
    (∃ i, actionOf e = .transaction i ∧ exec i s = .next t) ∨
    (actionOf e = .reset ∧ t = resetBlock s) ∨
    (actionOf e = .unit ∧ unitStep s = .next t) ∨
    (actionOf e = .nothing ∧ t = s) := by
  unfold perform at h
  split at h
  · rename_i i hi; exact .inl ⟨i, hi, h⟩
  · rename_i hi; cases h; exact .inr (.inl ⟨hi, rfl⟩)
  · rename_i hi; exact .inr (.inr (.inl ⟨hi, h⟩))
  · rename_i hi; cases h; exact .inr (.inr (.inr ⟨hi, rfl⟩))
  · cases h

/-- Every instruction answers a next state, one of these (R150 to R160). -/
theorem exec_cases (i : Instr) (s : State) :
    ∃ t, exec i s = .next t ∧
      ((∃ v, t = returnRead v s) ∨ (∃ v, t = { s with opa := v }) ∨ (∃ v, t = { s with opb := v }) ∨
        (∃ v, t = { s with modulus := v }) ∨ t = s ∨ (∃ v, t = submitCommand v s) ∨ (∃ v, t = writeStatus v s) ∨
        (∃ v, t = writeCtrl v s)) := by
  cases i <;> first
    | exact ⟨_, rfl, .inl ⟨_, rfl⟩⟩
    | exact ⟨_, rfl, .inr (.inl ⟨_, rfl⟩)⟩
    | exact ⟨_, rfl, .inr (.inr (.inl ⟨_, rfl⟩))⟩
    | exact ⟨_, rfl, .inr (.inr (.inr (.inl ⟨_, rfl⟩)))⟩
    | exact ⟨_, rfl, .inr (.inr (.inr (.inr (.inl rfl))))⟩
    | exact ⟨_, rfl, .inr (.inr (.inr (.inr (.inr (.inl ⟨_, rfl⟩)))))⟩
    | exact ⟨_, rfl, .inr (.inr (.inr (.inr (.inr (.inr (.inl ⟨_, rfl⟩))))))⟩
    | exact ⟨_, rfl, .inr (.inr (.inr (.inr (.inr (.inr (.inr ⟨_, rfl⟩))))))⟩

end Sys2Proof.Machine
end

