-- ==== Sys2Proof/Laws/PerInstr.lean ====
section
/-! SUPPORT. Statements made instruction by instruction. -/
namespace Sys2Proof.Laws.EncodingMatchesTable

/-- The row of a write in spec/opcode_table.json: its word under the row's mask is the row's match, and DATA is the
value written (R75, R78). -/
def WriteRow (i : Instr) (v : Word) (matchWord : BitVec 68) : Prop :=
  ∃ w, encode i = .port w ∧ w &&& 0xF0000000000000000#68 = matchWord ∧ dataField w = v

/-- The word of an instruction matches its row of spec/opcode_table.json. The masks of the commands and of the reads are
all ones, so there the word is the row's match. -/
def Statement : Instr → Prop
  | .mulmod => encode .mulmod = .cmdw 1#64
  | .powmod => encode .powmod = .cmdw 2#64
  | .isqrt => encode .isqrt = .cmdw 3#64
  | .isprime => encode .isprime = .cmdw 4#64
  | .wrOpa v => WriteRow (.wrOpa v) v 0x80000000000000000#68
  | .wrOpb v => WriteRow (.wrOpb v) v 0x90000000000000000#68
  | .wrMod v => WriteRow (.wrMod v) v 0xA0000000000000000#68
  | .wrRes v => WriteRow (.wrRes v) v 0xB0000000000000000#68
  | .wrCmd v => WriteRow (.wrCmd v) v 0xC0000000000000000#68
  | .wrStatus v => WriteRow (.wrStatus v) v 0xD0000000000000000#68
  | .wrCtrl v => WriteRow (.wrCtrl v) v 0xE0000000000000000#68
  | .wrR7 v => WriteRow (.wrR7 v) v 0xF0000000000000000#68
  | .rdOpa => encode .rdOpa = .port 0x00000000000000000#68
  | .rdOpb => encode .rdOpb = .port 0x10000000000000000#68
  | .rdMod => encode .rdMod = .port 0x20000000000000000#68
  | .rdRes => encode .rdRes = .port 0x30000000000000000#68
  | .rdCmd => encode .rdCmd = .port 0x40000000000000000#68
  | .rdStatus => encode .rdStatus = .port 0x50000000000000000#68
  | .rdCtrl => encode .rdCtrl = .port 0x60000000000000000#68
  | .rdR7 => encode .rdR7 = .port 0x70000000000000000#68

/-- The header of a transaction word, DATA masked away (R75). -/
theorem portWord_header (we : Bool) (r : PortReg) (v : Word) :
    portWord we r v &&& 0xF0000000000000000#68 = portWord we r 0#64 := by
  apply BitVec.eq_of_getLsbD_eq
  intro k hk
  have h : ∀ j : Fin 68, (0xF0000000000000000#68).getLsbD j = decide (64 ≤ j.val) := by decide
  rw [BitVec.getLsbD_and, portWord_getLsbD, portWord_getLsbD, h ⟨k, hk⟩]
  by_cases hk' : k < 64 <;> simp [hk']
  omega

theorem writeRow (r : PortReg) (v : Word) : WriteRow (writeInstr r v) v (portWord true r 0#64) := by
  refine ⟨portWord true r v, ?_, portWord_header true r v, dataField_portWord true r v⟩
  cases r <;> rfl

theorem mulmod : Statement .mulmod := rfl
theorem powmod : Statement .powmod := rfl
theorem isqrt : Statement .isqrt := rfl
theorem isprime : Statement .isprime := rfl
theorem wrOpa (v : Word) : Statement (.wrOpa v) := writeRow .opa v
theorem wrOpb (v : Word) : Statement (.wrOpb v) := writeRow .opb v
theorem wrMod (v : Word) : Statement (.wrMod v) := writeRow .mod v
theorem wrRes (v : Word) : Statement (.wrRes v) := writeRow .res v
theorem wrCmd (v : Word) : Statement (.wrCmd v) := writeRow .cmd v
theorem wrStatus (v : Word) : Statement (.wrStatus v) := writeRow .status v
theorem wrCtrl (v : Word) : Statement (.wrCtrl v) := writeRow .ctrl v
theorem wrR7 (v : Word) : Statement (.wrR7 v) := writeRow .r7 v
theorem rdOpa : Statement .rdOpa := rfl
theorem rdOpb : Statement .rdOpb := rfl
theorem rdMod : Statement .rdMod := rfl
theorem rdRes : Statement .rdRes := rfl
theorem rdCmd : Statement .rdCmd := rfl
theorem rdStatus : Statement .rdStatus := rfl
theorem rdCtrl : Statement .rdCtrl := rfl
theorem rdR7 : Statement .rdR7 := rfl

end Sys2Proof.Laws.EncodingMatchesTable
end

