-- ==== Sys2Proof/Laws/Primitives.lean ====
section
/-! SUPPORT. The primitives, case by case: what each computes, without its auxiliary pairs. -/
namespace Sys2Proof.Machine

/-- The carry is 1 exactly at a wrap (R92). -/
theorem carry64_eq_one_iff (s t : Nat) : carry64 s t = 1 ↔ 2 ^ 64 ≤ s + t := by
  unfold carry64
  split <;> omega

/-- Where the addition does not wrap, it is only reduced (R93). -/
theorem addmodWith_of_not_wrap {s t : Nat} (c m : Nat) (h : s + t < 2 ^ 64) : addmodWith c s t m = rem (s + t) m := by
  have hc : ¬ carry64 s t = 1 := by rw [carry64_eq_one_iff]; omega
  have e : addmodWith c s t m = rem (if carry64 s t = 1 then wrap64 (wrap64 (s + t) + c) else wrap64 (s + t)) m := rfl
  rw [e, if_neg hc, wrap64, Nat.mod_eq_of_lt h]

/-- Where the addition wraps, the constant is added before reducing (R93). -/
theorem addmodWith_of_wrap {s t : Nat} (c m : Nat) (h : 2 ^ 64 ≤ s + t) :
    addmodWith c s t m = rem (wrap64 (wrap64 (s + t) + c)) m := by
  have hc : carry64 s t = 1 := (carry64_eq_one_iff s t).2 h
  have e : addmodWith c s t m = rem (if carry64 s t = 1 then wrap64 (wrap64 (s + t) + c) else wrap64 (s + t)) m := rfl
  rw [e, if_pos hc]

end Sys2Proof.Machine
end

