-- ==== Sys2Proof/Laws/Script.lean ====
section
/-! SUPPORT. What running a list of events, `WAIT` and a call can do, said once each (30_encoding.md R79). -/
namespace Sys2Proof.Machine

/-- A run of two lists is the run of the second from where the first ends. -/
theorem performAll_append {es fs : List Event} {s t : State} (h : performAll es s = .next t) :
    performAll (es ++ fs) s = performAll fs t := by
  induction es generalizing s with
  | nil => cases h; rfl
  | cons e es ih =>
    simp only [performAll, List.cons_append] at h ⊢
    cases hp : perform e s with
    | next u => rw [hp] at h; exact ih h
    | fault r => rw [hp] at h; cases h
    | refused r => rw [hp] at h; cases h

/-- `WAIT` turns once, and ends there with bit 0 = 0 or goes on with bit 0 = 1. -/
theorem wait_cases {polls : List Nat} {s : State} {es : List Event} (h : wait polls s = some es) :
    ∃ n more t, polls = n :: more ∧ performAll (pollAfter n) s = .next t ∧
      ((t.rdata.getLsbD 0 = false ∧ es = pollAfter n) ∨
        (t.rdata.getLsbD 0 = true ∧ ∃ fs, wait more t = some fs ∧ es = pollAfter n ++ fs)) := by
  cases polls with
  | nil => cases h
  | cons n more =>
    simp only [wait] at h
    cases hp : performAll (pollAfter n) s with
    | next t =>
      rw [hp] at h
      refine ⟨n, more, t, rfl, hp, ?_⟩
      cases hb : t.rdata.getLsbD 0 with
      | false => simp only [hb] at h; cases h; exact .inl ⟨rfl, rfl⟩
      | true =>
        simp only [hb, if_true] at h
        obtain ⟨fs, hf, rfl⟩ := Option.map_eq_some_iff.1 h
        exact .inr ⟨rfl, fs, hf, rfl⟩
    | fault r => rw [hp] at h; cases h
    | refused r => rw [hp] at h; cases h

/-- `WAIT` never ends with a read that shows BUSY. -/
theorem wait_reads_not_busy {polls : List Nat} {s : State} {es : List Event} (h : wait polls s = some es) :
    ∃ t, performAll es s = .next t ∧ t.rdata.getLsbD 0 = false := by
  induction polls generalizing s es with
  | nil => cases h
  | cons n more ih =>
    obtain ⟨n', more', t, hl, hp, ⟨hb, rfl⟩ | ⟨hb, fs, hf, rfl⟩⟩ := wait_cases h
    · exact ⟨t, hp, hb⟩
    · cases hl
      obtain ⟨u, hu, hr⟩ := ih hf
      exact ⟨u, (performAll_append hp).trans hu, hr⟩

/-- A call is its writes, `WAIT` from the state they leave, and the read of RES. -/
theorem call_cases {writes : List Event} {polls : List Nat} {s t : State} (h : performAll writes s = .next t) :
    call writes polls s = (wait polls t).map (fun es => writes ++ es ++ [rd .res]) := by
  simp only [call, h]

end Sys2Proof.Machine
end

