-- ==== Sys2Proof/Tests/Slice0.lean ====
section
/-! SUPPORT. Small tests, their expected results taken from the rules and vectors of spec/ named beside them, and for each
statement with hypotheses a state and operands that meet them. -/
namespace Sys2Proof.Tests

open Sys2Proof Sys2Proof.Machine

/-! ## Helpers -/

/-- The result is a next state with property `p`. -/
def nextWith (r : Result) (p : State → Bool) : Bool :=
  match r with
  | .next t => p t
  | .fault _ => false
  | .refused _ => false

/-- Reset, with the operand registers written. -/
def operands (a b m : Word) : State := { State.reset with opa := a, opb := b, modulus := m }

/-- MULMOD just accepted on 7, 8, 10. -/
def running : State := accept 1#64 (operands 7#64 8#64 10#64)

/-- The same operation, its result 6 about to be written. -/
def finishing : State := { running with seq := .run (.ready 6#64) }

/-- A fault recorded, nothing running. -/
def faulted : State := reject .illegalCmd State.reset

/-- A state in which the unit stands inside a loop, with these working registers. -/
def inLoop (pos : MicroPos) (w : Working) : State := { running with seq := .run pos, w := w }

/-! ## What is ill formed is refused -/

/-- R75: a read carries no DATA. -/
theorem test_read_with_data_ill_formed : portWordWellFormed 0x30000000000000001#68 = false := by decide

theorem test_read_with_data_refused :
    decode (.port 0x30000000000000001#68) = .error .readCarriesData := by decide

/-- R51: never both strobes. -/
theorem test_both_strobes_ill_formed : strobesWellFormed true true = false := by decide

/-- R53: a 32-bit access, a misaligned one and one past the block are no transactions. -/
theorem test_bus_access_ill_formed :
    busAccessWellFormed 0 4 = false ∧ busAccessWellFormed 4 8 = false ∧ busAccessWellFormed 64 8 = false := by decide

/-- R76: every instruction is well formed. -/
theorem test_instr_well_formed : (Instr.wrMod 0#64).wellFormed = true ∧ Instr.mulmod.wellFormed = true := by decide

/-! ## Decoding: words written out from R71, R75 and R78 -/

theorem test_decode_commands :
    decodeTableWord 64 0x1 = some .mulmod ∧ decodeTableWord 64 0x2 = some .powmod ∧
    decodeTableWord 64 0x3 = some .isqrt ∧ decodeTableWord 64 0x4 = some .isprime := by decide

/-- The illegal words of V-F3 and V-F4. -/
theorem test_decode_illegal_commands :
    decodeCommand 0#64 = .error .illegalOpcode ∧ decodeCommand 5#64 = .error .illegalOpcode ∧
    decodeCommand 0xF#64 = .error .illegalOpcode ∧ decodeCommand 0x10#64 = .error .reservedBits ∧
    decodeCommand 0x13#64 = .error .reservedBits ∧ decodeCommand 0x8000000000000001#64 = .error .reservedBits := by decide

theorem test_decode_writes :
    decodeTableWord 72 0x80123456789ABCDEF = some (.wrOpa 0x0123456789ABCDEF#64) ∧
    decodeTableWord 72 0x9FEDCBA9876543210 = some (.wrOpb 0xFEDCBA9876543210#64) ∧
    decodeTableWord 72 0xA000000000000009D = some (.wrMod 157#64) ∧
    decodeTableWord 72 0xB0000000000001234 = some (.wrRes 0x1234#64) ∧
    decodeTableWord 72 0xC0000000000000001 = some (.wrCmd 1#64) ∧
    decodeTableWord 72 0xD0000000000000002 = some (.wrStatus 2#64) ∧
    decodeTableWord 72 0xE0000000000000004 = some (.wrCtrl 4#64) ∧
    decodeTableWord 72 0xF000000000000FFFF = some (.wrR7 0xFFFF#64) := by decide

theorem test_decode_reads :
    decodeTableWord 72 0x00000000000000000 = some .rdOpa ∧ decodeTableWord 72 0x10000000000000000 = some .rdOpb ∧
    decodeTableWord 72 0x20000000000000000 = some .rdMod ∧ decodeTableWord 72 0x30000000000000000 = some .rdRes ∧
    decodeTableWord 72 0x40000000000000000 = some .rdCmd ∧ decodeTableWord 72 0x50000000000000000 = some .rdStatus ∧
    decodeTableWord 72 0x60000000000000000 = some .rdCtrl ∧ decodeTableWord 72 0x70000000000000000 = some .rdR7 := by decide

/-! ## The primitives -/

/-- V-A1, V-A4, V-A8, V-A10. -/
theorem test_wrapc :
    wrapc 1 = 0 ∧ wrapc 10 = 6 ∧ wrapc 9223372036854775809 = 9223372036854775807 ∧ wrapc 18446744073709551557 = 59 := by
  decide

/-- V-A16 and V-A18: one wraps and is compensated, one only reduces. -/
theorem test_addmod :
    addmod 18446744073709551556 18446744073709551555 18446744073709551557 = 18446744073709551554 ∧
    addmod 9223372036854775807 9223372036854775807 9223372036854775808 = 9223372036854775806 := by decide

/-- V-A20. -/
theorem test_dblmod : dblmod 18446744073709551556 18446744073709551557 = 18446744073709551555 := by decide

/-- V-A22, V-A25. -/
theorem test_rem : rem 18446744073709551615 18446744073709551557 = 58 ∧ rem 5 7 = 5 := by decide

/-- R98's trace of `rem(157, 3)`: the partial remainder 1 takes the next bit, 0, and then 1. -/
theorem test_restoring_step : restoringStep 3 false 1 = 2 ∧ restoringStep 3 true 1 = 0 := by decide

/-! ## MULMOD -/

/-- R153 and R154's example: STATUS 1, the snapshot taken, RES not yet written. -/
theorem test_mulmod_accepted :
    nextWith (exec .mulmod (operands 7#64 8#64 10#64)) (fun t =>
      statusWord t.status == 1#64 && t.cmd == 1#64 && t.w.a == 7#64 && t.w.b == 8#64 && t.w.m == 10#64 &&
        t.res == 0#64) = true := by decide

/-- R115, the trace of `mulmod(7, 8, 10)`: the load, and pass 1. -/
theorem test_mulmod_trace :
    nextWith (unitStep running) (fun t =>
      t.w.k == 7#64 && t.w.t == 8#64 && t.w.c == 6#64 && t.w.acc == 0#64 &&
        nextWith (unitStep t) (fun u => u.w.acc == 8#64 && u.w.k == 3#64 && u.w.t == 6#64)) = true := by decide

/-! ## POWMOD -/

/-- V-F2: POWMOD with MOD = 0 and exponent 0 is a fault, not 1. -/
theorem test_powmod_zero_modulus :
    nextWith (exec .powmod (operands 3#64 0#64 0#64)) (fun t => statusWord t.status == 0x24#64 && t.cmd == 0#64) = true := by
  decide

/-- R125, `powmod(5, 0, 1) = 1`: with no bit of the exponent left the result is PR, unreduced. -/
theorem test_powmod_exponent_zero :
    nextWith (unitStep (accept 2#64 (operands 5#64 0#64 1#64))) (fun t =>
      nextWith (unitStep t) (fun u => u.seq == .run (.ready 1#64))) = true := by decide

/-! ## ISQRT -/

/-- V-I4: accepted with MOD = 0. -/
theorem test_isqrt_accepted_with_zero_modulus :
    nextWith (exec .isqrt (operands 17#64 0#64 0#64)) (fun t => statusWord t.status == 1#64 && t.cmd == 3#64) = true := by
  decide

/-- R134, the trace of `isqrt(157)`: at SB = 16, SR 93 and SQ 64 become 13 and 48. -/
theorem test_isqrt_trace :
    nextWith (unitStep (inLoop (.sqrtLoop .command) { running.w with sr := 93#64, sq := 64#64, sb := 16#64 })) (fun t =>
      t.w.sr == 13#64 && t.w.sq == 48#64 && t.w.sb == 4#64) = true := by decide

/-! ## ISPRIME -/

/-- V-F9: ISPRIME accepted; a second one while it runs is rejected. -/
theorem test_isprime_while_busy :
    nextWith (exec .isprime (operands 49#64 0#64 0#64)) (fun t =>
      statusWord t.status == 1#64 && nextWith (exec .isprime t) (fun u => statusWord u.status == 0x35#64)) = true := by
  decide

/-- R145, `isprime(91)`: 5 leaves 1, so 7 is next; 7 leaves 0, so the result is 0. -/
theorem test_isprime_trace :
    nextWith (unitStep (inLoop .primeLoop { running.w with a := 91#64, lim := 9#32, d := 5#33 })) (fun t =>
      t.w.rm == 1#65 && t.w.d == 7#33 &&
        nextWith (unitStep t) (fun u => u.seq == .run (.ready 0#64))) = true := by decide

/-! ## The port -/

/-- R160's example, and V-I3. -/
theorem test_operand_writes :
    nextWith (exec (.wrMod 0x9D#64) State.reset) (fun t => nextWith (exec .rdMod t) (fun u => u.rdata == 157#64)) = true ∧
    nextWith (exec (.wrOpa 0xFFFFFFFFFFFFFFFF#64) running) (fun t =>
      nextWith (exec .rdOpa t) (fun u => u.rdata == 0xFFFFFFFFFFFFFFFF#64 && u.w.a == 7#64)) = true ∧
    nextWith (exec (.wrOpb 5#64) faulted) (fun t => nextWith (exec .rdOpb t) (fun u => u.rdata == 5#64)) = true := by
  decide

/-- V-I2. -/
theorem test_ignored_writes :
    nextWith (exec (.wrRes 0x1234#64) State.reset) (fun t =>
      t.status == State.reset.status && nextWith (exec .rdRes t) (fun u => u.rdata == 0#64)) = true ∧
    nextWith (exec (.wrR7 0xFFFF#64) State.reset) (fun t =>
      t.status == State.reset.status && nextWith (exec .rdR7 t) (fun u => u.rdata == 0#64)) = true := by decide

/-- V-F5: an illegal word that would also be MULMOD at MOD = 0 reports cause 1. -/
theorem test_write_cmd_priority :
    nextWith (exec (.wrCmd 0x11#64) State.reset) (fun t => statusWord t.status == 0x14#64) = true := by decide

/-- V-F8: while ERR is set a legal command is dropped. -/
theorem test_write_cmd_dropped :
    nextWith (exec (.wrCmd 3#64) faulted) (fun t => statusWord t.status == 0x14#64 && t.cmd == 0#64) = true := by decide

/-- V-I5: with STATUS = 2, writes of 1 and 0xF0 change nothing and a write of 2 clears DONE and leaves RES. -/
theorem test_write_status :
    nextWith (unitStep finishing) (fun s =>
      nextWith (exec (.wrStatus 0xF1#64) s) (fun t => statusWord t.status == 2#64) &&
      nextWith (exec (.wrStatus 2#64) s) (fun t => statusWord t.status == 0#64 && t.res == 6#64)) = true := by decide

/-- V-I6, and R157's example. -/
theorem test_write_ctrl :
    nextWith (exec (.wrCtrl 0xFFFFFFFFFFFFFFFB#64) running) (fun t =>
      t.seq == running.seq && nextWith (exec .rdCtrl t) (fun u => u.rdata == 3#64)) = true := by decide

/-- V-I12: a soft reset during a run wins over the enable bits of the same write. -/
theorem test_soft_reset :
    nextWith (exec (.wrCtrl 7#64) running) (fun t =>
      t.seq == .idle && ctrlWord t.ctrl == 0#64 && statusWord t.status == 0#64 && t.opa == 0#64 && t.cmd == 0#64) = true := by
  decide

/-- V-I13: STATUS and RES before the completion and after it, and CMD. -/
theorem test_completion :
    nextWith (exec .rdStatus finishing) (fun t => t.rdata == 1#64) = true ∧
    nextWith (unitStep finishing) (fun s =>
      nextWith (exec .rdStatus s) (fun t => t.rdata == 2#64) && nextWith (exec .rdRes s) (fun t => t.rdata == 6#64) &&
        nextWith (exec .rdCmd s) (fun t => t.rdata == 1#64)) = true := by decide

/-- V-I8, V-I9, V-I10: enabling a pending source raises `irq`, and the error source. -/
theorem test_irq :
    irq { State.reset with status := { busy := false, done := true, err := false, cause := .none } } = false ∧
    irq { State.reset with
      status := { busy := false, done := true, err := false, cause := .none }
      ctrl := { ienDone := true, ienErr := false } } = true ∧
    irq { faulted with ctrl := { ienDone := false, ienErr := true } } = true := by decide

/-! ## Events and the step -/

/-- R51: a clock edge with one strobe is a transaction; with both it is refused. -/
theorem test_edge :
    nextWith (perform (.edge ⟨false, true, false, 2#3, 10#64⟩) State.reset) (fun t => t.modulus == 10#64) = true ∧
    actionOf (.edge ⟨false, true, true, 2#3, 10#64⟩) = .refuse .bothStrobes := by decide

/-- R52: bytes, lowest address first. -/
theorem test_little_endian :
    littleEndian [0xEF#8, 0xCD#8, 0xAB#8, 0x89#8, 0x67#8, 0x45#8, 0x23#8, 0x01#8] = 0x0123456789ABCDEF ∧
    byteAt 0x0123456789ABCDEF#64 1 = 0xCD#8 := by decide

/-- The interface: a word placed as the next input is what the step runs first after reset. -/
theorem test_step_runs_placed_word :
    nextWith (step (State.reset.withFetchWord 72 0xA000000000000009D)) (fun t => t.modulus == 157#64) = true ∧
    nextWith (step (State.reset.withFetchWord 64 3)) (fun t => t.cmd == 3#64 && t.status.busy) = true := by decide

/-- 95_test_vectors.md P1 as a call: the first read of STATUS returns 1 and the read after the completion 2, so there are two
reads, whatever else was scheduled, and RES is P - 3. -/
theorem test_call_mulmod :
    callMulmod 0xFFFFFFFFFFFFFFC4#64 3#64 0xFFFFFFFFFFFFFFC5#64 [0, 5, 7] State.reset =
      some [wr .opa 0xFFFFFFFFFFFFFFC4#64, wr .opb 3#64, wr .mod 0xFFFFFFFFFFFFFFC5#64, wr .cmd 1#64,
        rd .status, .unitStep, .unitStep, .unitStep, .unitStep, .unitStep, rd .status, rd .res] ∧
    ((callMulmod 0xFFFFFFFFFFFFFFC4#64 3#64 0xFFFFFFFFFFFFFFC5#64 [0, 5, 7] State.reset).all fun es =>
      nextWith (performAll es State.reset) (fun t => t.rdata == 0xFFFFFFFFFFFFFFC2#64)) = true := by decide

/-- A host that has polled twice and seen BUSY = 1 is still waiting, and has not read RES (R79, R155). -/
theorem test_call_isqrt_still_polling : callIsqrt 9#64 [0, 2] State.reset = none := by decide

/-- A word of neither format, and a read that carries DATA, are refused by name. -/
theorem test_step_refuses :
    step (State.reset.withFetchWord 16 1) = .refused .unknownFormat ∧
    step (State.reset.withFetchWord 72 0x30000000000000001) = .refused .readCarriesData := by
  exact ⟨rfl, rfl⟩

/-! ## Witnesses: what meets the hypotheses of each statement that has any -/

theorem witness_DecodeOfEncodeIsTheInstruction : (Instr.wrCtrl 0xFFFFFFFFFFFFFFFF#64).wellFormed = true := by decide

theorem witness_EncodeOfDecodeIsTheWord : decode (.port 0xC0000000000000013#68) = .ok (.wrCmd 0x13#64) := by decide

theorem witness_ExactlyFourWordsAreCommands : (0x8000000000000001#64).extractLsb' 4 60 ≠ 0#60 := by decide

theorem witness_StepRunsTheDecodedInstruction :
    ({ State.reset with inputs := [.word (.cmdw 3#64)] } : State).inputs = [.word (.cmdw 3#64)] ∧
    decode (.cmdw 3#64) = .ok .isqrt ∧ decodeTableWord 72 0xF0000000000000000 = some (.wrR7 0#64) := by decide

theorem witness_SilentHostLeavesTheUnitToStep :
    running.inputs = [] ∧ State.reset.inputs = [] ∧ State.reset.seq = .idle := by decide

/-- A list that begins with each kind of input in turn. -/
theorem witness_StepPerformsTheNextEvent :
    ([.hardReset, .unitStep, .foreign 16 1, .edge ⟨false, true, false, 0#3, 0#64⟩, .busRead 0 8, .busWrite 0 [],
      .word (.cmdw 3#64)] : List Event).all (fun e => ({ running with inputs := [e] } : State).inputs == [e]) = true := by
  decide

/-- OPC 0, the two ends of 5 to 15, and a legal OPC with a reserved bit. -/
theorem witness_IllegalWordIsRejected :
    State.reset.status.err = false ∧ State.reset.status.busy = false ∧
    ((0#64).extractLsb' 0 4).toNat = 0 ∧ 5 ≤ ((5#64).extractLsb' 0 4).toNat ∧ 5 ≤ ((15#64).extractLsb' 0 4).toNat ∧
    (0x11#64).extractLsb' 4 60 ≠ 0#60 := by decide

/-- A legal command word and an illegal one, each as the next input. -/
theorem witness_CommandsAreWritesOfTheirWord :
    ({ State.reset with inputs := [.word (.cmdw 4#64)] } : State).inputs = [.word (.cmdw 4#64)] ∧
    ({ State.reset with inputs := [.word (.cmdw 0x11#64)] } : State).inputs = [.word (.cmdw 0x11#64)] := by decide

theorem witness_ReadsAreIdempotent : ∃ t, exec (readInstr .status) running = .next t := ⟨_, rfl⟩

theorem witness_WritesOfResAndIndex7AreIgnored :
    (∃ t, step finishing = .next t ∧ t.res ≠ finishing.res) ∧
    (∃ t, step { complete 6#64 running with inputs := [.word (encode (.wrCtrl 4#64))] } = .next t ∧
      t.res ≠ (complete 6#64 running).res) :=
  ⟨⟨_, rfl, by decide⟩, ⟨_, rfl, by decide⟩⟩

theorem witness_CtrlWriteSetsTheEnables :
    (0xFFFFFFFFFFFFFFFB#64).getLsbD 2 = false ∧ (4#64).getLsbD 2 = true ∧ (7#64).getLsbD 2 = true := by decide

/-- Reset values at the port, with working registers that are not those of `State.reset`. -/
theorem witness_ResetStateHoldsTheSpecValues : HoldsResetValues { State.reset with w := running.w } := by
  simp [HoldsResetValues, State.reset, irq]

theorem witness_SoftResetIsTheHardReset : (7#64).getLsbD 2 = true := by decide

/-- A command that needs MOD with the least MOD, 1, and one that does not with MOD = 0. -/
theorem witness_AcceptanceTakesTheSnapshot :
    (operands 0#64 0#64 1#64).status.err = false ∧ (operands 0#64 0#64 1#64).status.busy = false ∧
    decodeCommand 1#64 = .ok .mulmod ∧ (operands 0#64 0#64 1#64).modulus ≠ 0#64 ∧
    State.reset.status.err = false ∧ State.reset.status.busy = false ∧
    decodeCommand 4#64 = .ok .isprime ∧ needsModulus .isprime = false ∧ State.reset.modulus = 0#64 := by decide

theorem witness_ZeroModulusIsRejected :
    State.reset.status.err = false ∧ State.reset.status.busy = false ∧ State.reset.modulus = 0#64 := by decide

theorem witness_CommandWhileBusyDoesNotDisturb :
    running.status.err = false ∧ running.status.busy = true ∧ (∃ t, unitStep running = .next t) ∧
    (∃ t, unitStep finishing = .next t) := ⟨rfl, rfl, ⟨_, rfl⟩, ⟨_, rfl⟩⟩

theorem witness_RejectsArePrecise :
    ∃ t, exec (.wrCmd 0#64) State.reset = .next t ∧ State.reset.status.err = false ∧ t.status.err = true :=
  ⟨_, rfl, rfl, rfl⟩

theorem witness_FaultsDoNotNest :
    faulted.status.err = true ∧ submittedWord (.wrCmd 3#64) = some 3#64 ∧ (∃ t, step faulted = .next t) ∧
    (reject .cmdWhileBusy finishing).status.err = true ∧ (reject .cmdWhileBusy finishing).seq = .run (.ready 6#64) :=
  ⟨rfl, rfl, ⟨_, rfl⟩, rfl, rfl⟩

theorem witness_ClearingTheErrorReopensTheBlock : faulted.status.busy = false := by decide

theorem witness_TransactionsUnderResetAreIgnored : (⟨true, true, false, 4#3, 3#64⟩ : Pins).rst = true := by decide

/-- A wrong width alone, and a misalignment alone. -/
theorem witness_AlignedBusAccessesAreTransactions :
    ((4 ≠ 8 ∨ 0 % 8 ≠ 0) ∧ ([0#8, 0#8, 0#8, 0#8] : List Byte).length = 4) ∧
    ((8 ≠ 8 ∨ 4 % 8 ≠ 0) ∧ (List.replicate 8 (0#8 : Byte)).length = 8) := by decide

theorem witness_InterruptFollowsFlagsAndEnables :
    (∃ t, exec (.wrCtrl 1#64) running = .next t ∧ (1#64).getLsbD 2 = false) ∧
    (∃ t, exec (.wrStatus 2#64) running = .next t) ∧
    (∃ t, submittedWord .isqrt = some 3#64 ∧ exec .isqrt State.reset = .next t ∧ State.reset.status.busy = false ∧
      t.status.busy = true) ∧
    (∃ t, exec (readInstr .res) running = .next t) ∧ (∃ t, perform .hardReset running = .next t) :=
  ⟨⟨_, rfl, rfl⟩, ⟨_, rfl⟩, ⟨_, rfl, rfl, rfl, rfl⟩, ⟨_, rfl⟩, ⟨_, rfl⟩⟩

theorem witness_MicroStepsAreInvisible :
    (∃ t, unitStep State.reset = .next t) ∧ (∃ t, unitStep running = .next t) ∧ (∃ t, unitStep finishing = .next t) :=
  ⟨⟨_, rfl⟩, ⟨_, rfl⟩, ⟨_, rfl⟩⟩

theorem running_portInv : PortInv running :=
  ⟨by decide, by decide, by decide, by decide, fun _ => ⟨.mulmod, by decide, by decide⟩, .inr ⟨.mulmod, by decide⟩⟩

theorem running_inv : Inv running := ⟨running_portInv, .mulmod, by decide, by decide, trivial⟩

theorem finishing_inv : Inv finishing :=
  ⟨⟨by decide, by decide, by decide, by decide, fun _ => ⟨.mulmod, by decide, by decide⟩, .inr ⟨.mulmod, by decide⟩⟩,
    .mulmod, by decide, by decide, (rfl : (6#64).toNat = 7 * 8 % 10)⟩

theorem witness_CompletionWritesTheResult : Inv finishing ∧ finishing.seq = .run (.ready 6#64) := ⟨finishing_inv, rfl⟩

theorem witness_CompletionWinsOverAClear : finishing.seq = .run (.ready 6#64) ∧ (2#64).getLsbD 1 = true := by decide

theorem witness_HostCannotAlterARunningOperation :
    ∃ t, exec (.wrOpa 5#64) running = .next t ∧ running.status.busy = true ∧ isSoftReset (.wrOpa 5#64) = false :=
  ⟨_, rfl, rfl, rfl⟩

/-- RES changes at a completion, and at a reset. -/
theorem witness_ResultChangesOnlyAtCompletionOrReset :
    (∃ t, step finishing = .next t ∧ t.res ≠ finishing.res) ∧
    (∃ t, step { complete 6#64 running with inputs := [.hardReset] } = .next t ∧ t.res ≠ (complete 6#64 running).res) :=
  ⟨⟨_, rfl, by decide⟩, ⟨_, rfl, by decide⟩⟩

theorem witness_CommandRegisterHoldsTheLastAccepted :
    (∃ t, step { State.reset with inputs := [.word (.cmdw 3#64)] } = .next t ∧ t.cmd ≠ State.reset.cmd) ∧
    (∃ t, step { running with inputs := [.word (encode (.wrCtrl 4#64))] } = .next t ∧ t.cmd ≠ running.cmd) :=
  ⟨⟨_, rfl, by decide⟩, ⟨_, rfl, by decide⟩⟩

theorem witness_OperationsStartOnlyAtAcceptance :
    ∃ t, step { State.reset with inputs := [.word (.cmdw 3#64)] } = .next t ∧ State.reset.seq = .idle ∧ t.seq ≠ .idle :=
  ⟨_, rfl, rfl, by decide⟩

theorem witness_FlagsAreSetOnlyByTheirEvents :
    (∃ t, step finishing = .next t ∧ finishing.status.done = false ∧ t.status.done = true) ∧
    (∃ t, step { State.reset with inputs := [.word (.cmdw 0#64)] } = .next t ∧ State.reset.status.err = false ∧
      t.status.err = true) ∧
    (∃ t, step { State.reset with inputs := [.word (.cmdw 4#64)] } = .next t ∧ State.reset.status.busy = false ∧
      t.status.busy = true) :=
  ⟨⟨_, rfl, rfl, rfl⟩, ⟨_, rfl, rfl, rfl⟩, ⟨_, rfl, rfl, rfl⟩⟩

theorem witness_FlagsAreClearedOnlyByTheirEvents :
    (∃ t, step finishing = .next t ∧ finishing.status.busy = true ∧ t.status.busy = false) ∧
    (∃ t, step { complete 6#64 running with inputs := [.word (.cmdw 3#64)] } = .next t ∧
      (complete 6#64 running).status.done = true ∧ t.status.done = false) ∧
    (∃ t, step { faulted with inputs := [.word (encode (.wrStatus 4#64))] } = .next t ∧ faulted.status.err = true ∧
      t.status.err = false ∧ t.status.cause ≠ faulted.status.cause) :=
  ⟨⟨_, rfl, rfl, rfl⟩, ⟨_, rfl, rfl, rfl⟩, ⟨_, rfl, rfl, rfl, by decide⟩⟩

theorem witness_HostRegistersChangeOnlyByTheirWrites :
    (∃ t, step { State.reset with inputs := [.word (encode (.wrOpa 1#64))] } = .next t ∧ t.opa ≠ State.reset.opa) ∧
    (∃ t, step { State.reset with inputs := [.word (encode (.wrOpb 1#64))] } = .next t ∧ t.opb ≠ State.reset.opb) ∧
    (∃ t, step { running with inputs := [.hardReset] } = .next t ∧ t.modulus ≠ running.modulus) ∧
    (∃ t, step { State.reset with inputs := [.word (encode (.wrCtrl 1#64))] } = .next t ∧ t.ctrl ≠ State.reset.ctrl) :=
  ⟨⟨_, rfl, by decide⟩, ⟨_, rfl, by decide⟩, ⟨_, rfl, by decide⟩, ⟨_, rfl, by decide⟩⟩

theorem witness_PortInvariantIsKept : PortInv running ∧ ∃ t, step running = .next t := ⟨running_portInv, ⟨_, rfl⟩⟩

theorem witness_OperationInvariantIsKept :
    (Inv running ∧ ∃ t, step running = .next t) ∧ (Inv finishing ∧ ∃ t, step finishing = .next t) :=
  ⟨⟨running_inv, ⟨_, rfl⟩⟩, ⟨finishing_inv, ⟨_, rfl⟩⟩⟩

/-- The invariant, with an input that is refused. -/
theorem witness_NoStepFaults :
    Inv { running with inputs := [.foreign 16 1] } ∧
    step { running with inputs := [.foreign 16 1] } = .refused .unknownFormat :=
  ⟨⟨⟨by decide, by decide, by decide, by decide, fun _ => ⟨.mulmod, by decide, by decide⟩, .inr ⟨.mulmod, by decide⟩⟩,
    .mulmod, by decide, by decide, trivial⟩, rfl⟩

/-- The least modulus, a power of two, and one above 2^63. -/
theorem witness_CompensationConstantIsTheLostWeight :
    (0 < 1 ∧ 1 < 2 ^ 64) ∧ (2 ^ 63 < 2 ^ 64 ∧ 9223372036854775808 = 2 ^ 63) ∧
    (2 ^ 63 < 9223372036854775809 ∧ 9223372036854775809 < 2 ^ 64) ∧ (10#64).toNat = 10 := by decide

theorem witness_AdderCarryIsTheWrap :
    18446744073709551615 < 2 ^ 64 ∧ 1 < 2 ^ 64 ∧ (add64 18446744073709551615 1).2 = 1 ∧ (add64 18446744073709551615 0).2 = 0 := by
  decide

/-- The largest modulus with the largest operands, which wrap, and the least modulus. -/
theorem witness_CompensatedAdditionIsExact :
    (18446744073709551615 < 2 ^ 64 ∧ 18446744073709551614 < 18446744073709551615 ∧
      carry64 18446744073709551614 18446744073709551614 = 1) ∧ (0 < 1 ∧ 0 < 2 ^ 64) := by decide

theorem witness_CompensatedDoublingIsExact :
    (0 < 9223372036854775809 ∧ 9223372036854775809 < 2 ^ 64 ∧ 9223372036854775808 < 9223372036854775809) ∧
    carry64 9223372036854775808 9223372036854775808 = 1 ∧ carry64 9223372036854775807 9223372036854775807 = 0 := by decide

theorem witness_RestoringDividerIsTheRemainder :
    157 < 2 ^ 64 ∧ 0 < 3 ∧ 3 < 2 ^ 64 ∧ 0 ≤ 64 ∧ 64 ≤ 64 ∧ 2 < 3 := by decide

/-- The last pass, the third, of 7 * 8 mod 10, and no pass at all with an operand 0. -/
theorem witness_MulmodPassesKeepTheLoopInvariant :
    10#64 ≠ 0#64 ∧ 3 ≤ bitlen (min (7#64).toNat (8#64).toNat) ∧ 0 ≤ bitlen (min (0#64).toNat (8#64).toNat) ∧
    bitlen (min (7#64).toNat (8#64).toNat) = 3 := by decide

theorem witness_IsqrtPassesKeepTheLoopInvariant : 0 ≤ 32 ∧ 1 ≤ 32 ∧ 32 ≤ 32 := by decide

theorem witness_MulmodCompletesWithTheProduct :
    (operands 0#64 0#64 1#64).status.err = false ∧ (operands 0#64 0#64 1#64).status.busy = false ∧
    (operands 0#64 0#64 1#64).modulus ≠ 0#64 := by decide

/-- Exponent 0 and modulus 1, and the largest exponent and modulus. -/
theorem witness_PowmodCompletesWithThePower :
    ((operands 5#64 0#64 1#64).status.err = false ∧ (operands 5#64 0#64 1#64).status.busy = false ∧
      (operands 5#64 0#64 1#64).modulus ≠ 0#64) ∧
    ((operands 2#64 (-1#64) (-1#64)).status.err = false ∧ (operands 2#64 (-1#64) (-1#64)).status.busy = false ∧
      (operands 2#64 (-1#64) (-1#64)).modulus ≠ 0#64) := by decide

theorem witness_IsqrtCompletesWithTheRoot :
    (operands (-1#64) 0#64 0#64).status.err = false ∧ (operands (-1#64) 0#64 0#64).status.busy = false := by decide

/-- A prime and a number that is none: 2 and 1. -/
theorem witness_IsprimeCompletesWithThePrimality :
    ((operands 2#64 0#64 0#64).status.err = false ∧ (operands 2#64 0#64 0#64).status.busy = false) ∧
    PrimeNumber (operands 2#64 0#64 0#64).opa.toNat ∧ ¬ PrimeNumber (operands 1#64 0#64 0#64).opa.toNat := by
  refine ⟨by decide, ⟨by decide, fun d h2 hd => ?_⟩, fun h => absurd h.1 (by decide)⟩
  have : d < 2 := hd
  omega

theorem witness_CommandsCompleteWithinTheirPassBounds :
    (operands 7#64 8#64 10#64).status.err = false ∧ (operands 7#64 8#64 10#64).status.busy = false ∧
    (needsModulus .powmod = true → (operands 7#64 8#64 10#64).modulus ≠ 0#64) ∧
    passBound .mulmod (operands 7#64 8#64 10#64).opa.toNat (operands 7#64 8#64 10#64).opb.toNat = 6 := by decide

theorem witness_EveryOperationCompletes : Inv running ∧ running.inputs = [] ∧ running.seq ≠ .idle :=
  ⟨running_inv, by decide, by decide⟩

/-- 0 * 0 modulo 1, with the host reading RES too early and writing OPA while the three steps of the unit happen. -/
theorem witness_CallReturnsTheFunctionValue :
    ∃ t u v, (operands 0#64 0#64 1#64).status.err = false ∧ (operands 0#64 0#64 1#64).status.busy = false ∧
      (needsModulus .mulmod = true → (operands 0#64 0#64 1#64).modulus ≠ 0#64) ∧
      exec (.wrCmd (commandWord .mulmod)) (operands 0#64 0#64 1#64) = .next t ∧
      (∀ e ∈ [rd .res, .unitStep, wr .opa 5#64, .unitStep, .unitStep], quietEvent e = true) ∧
      performAll [rd .res, .unitStep, wr .opa 5#64, .unitStep, .unitStep] t = .next u ∧
      exec .rdStatus u = .next v ∧ v.rdata.getLsbD 0 = false :=
  ⟨_, _, _, rfl, rfl, by decide, rfl, by decide, rfl, rfl, by decide⟩

/-- In the same run OPA is written and OPB and MOD are not. -/
theorem witness_CallReturnsTheFunctionValue_opb_mod :
    (∀ e ∈ [rd .res, .unitStep, wr .opa 5#64, .unitStep, .unitStep], ∀ w, actionOf e ≠ .transaction (.wrOpb w)) ∧
    (∀ e ∈ [rd .res, .unitStep, wr .opa 5#64, .unitStep, .unitStep], ∀ w, actionOf e ≠ .transaction (.wrMod w)) := by
  simp only [List.forall_mem_cons, List.not_mem_nil, false_implies, implies_true, and_true]
  refine ⟨⟨?_, ?_, ?_, ?_, ?_⟩, ?_, ?_, ?_, ?_, ?_⟩ <;> rintro w ⟨⟩

/-- A run of the same operation in which OPB and MOD are written and OPA is not. -/
theorem witness_CallReturnsTheFunctionValue_opa :
    ∃ t u v, exec (.wrCmd (commandWord .mulmod)) (operands 0#64 0#64 1#64) = .next t ∧
      (∀ e ∈ [wr .opb 5#64, .unitStep, wr .mod 0#64, .unitStep, .unitStep], quietEvent e = true) ∧
      performAll [wr .opb 5#64, .unitStep, wr .mod 0#64, .unitStep, .unitStep] t = .next u ∧
      exec .rdStatus u = .next v ∧ v.rdata.getLsbD 0 = false ∧
      ∀ e ∈ [wr .opb 5#64, .unitStep, wr .mod 0#64, .unitStep, .unitStep], ∀ w, actionOf e ≠ .transaction (.wrOpa w) := by
  refine ⟨_, _, _, rfl, by decide, rfl, rfl, by decide, ?_⟩
  simp only [List.forall_mem_cons, List.not_mem_nil, false_implies, implies_true, and_true]
  refine ⟨?_, ?_, ?_, ?_, ?_⟩ <;> rintro w ⟨⟩

/-- Two runs of 0 * 0 modulo 1, from states that differ in RES and CTRL, under different schedules. -/
theorem witness_ResultDependsOnlyOnTheOperands :
    let s₁ := operands 0#64 0#64 1#64
    let s₂ : State := { operands 0#64 0#64 1#64 with res := 9#64, ctrl := { ienDone := true, ienErr := false } }
    ∃ t₁ t₂ u₁ u₂, s₁.status.err = false ∧ s₁.status.busy = false ∧ s₂.status.err = false ∧ s₂.status.busy = false ∧
      s₁.opa = s₂.opa ∧ (needsModulus .mulmod = true → s₁.opb = s₂.opb ∧ s₁.modulus = s₂.modulus ∧ s₁.modulus ≠ 0#64) ∧
      exec (.wrCmd (commandWord .mulmod)) s₁ = .next t₁ ∧ exec (.wrCmd (commandWord .mulmod)) s₂ = .next t₂ ∧
      (∀ e ∈ [.unitStep, .unitStep, .unitStep], quietEvent e = true) ∧
      (∀ e ∈ [.unitStep, rd .res, .unitStep, .unitStep], quietEvent e = true) ∧
      performAll [.unitStep, .unitStep, .unitStep] t₁ = .next u₁ ∧
      performAll [.unitStep, rd .res, .unitStep, .unitStep] t₂ = .next u₂ ∧
      u₁.status.busy = false ∧ u₂.status.busy = false :=
  ⟨_, _, _, _, rfl, rfl, rfl, rfl, rfl, by decide, rfl, rfl, by decide, by decide, rfl, rfl, rfl, rfl⟩

/-- The unit completes MULMOD 7, 8, 10 in six steps, and a schedule whose steps come to six is there. -/
theorem witness_PseudoInstructionsExpand_wait_ends :
    (∃ t, performAll (List.replicate 6 .unitStep) running = .next t ∧ t.seq = .idle ∧ t.status.busy = false) ∧
    ([2, 0, 4] : List Nat) ≠ [] ∧ 6 ≤ ([2, 0, 4] : List Nat).sum :=
  ⟨⟨_, rfl, by decide, by decide⟩, by decide⟩

end Sys2Proof.Tests
end

section
/-! SUPPORT. The port's invariant (10_state.md R33) and the reset values (R32). For each shared operation a lemma that it
keeps `PortInv`; the events and the step are assembled from these with the case lemmas of Laws/Ops. -/
namespace Sys2Proof.Machine

/-! ### Instructions by the shared operation they call -/

/-- A read transaction returns the register it names (R150). -/
theorem exec_readInstr (r : PortReg) (s : State) : exec (readInstr r) s = .next (returnRead (regRead r s) s) := by
  cases r <;> rfl

/-- A command is the submission of its word (R152). -/
theorem exec_instrOfCommand (c : Command) (s : State) :
    exec (instrOfCommand c) s = .next (submitCommand (commandWord c) s) := by
  cases c <;> rfl

/-- A write of CTRL with bit 2 is the reset of the block, whatever its other bits (R157, R158). -/
theorem exec_wrCtrl_of_bit2 {v : Word} (hv : v.getLsbD 2 = true) (s : State) :
    exec (.wrCtrl v) s = .next (resetBlock s) :=
  congrArg _ (if_pos hv)

/-! ### Reserved bits -/

/-- The reserved bits of STATUS have no storage and read 0 (R25). -/
theorem statusWord_reserved (st : Status) : statusWord st &&& 0xFFFFFFFFFFFFFF08#64 = 0#64 := by
  obtain ⟨busy, done, err, cause⟩ := st
  revert busy done err
  cases cause <;> decide

/-- The reserved bits of CTRL, and SRST, have no storage and read 0 (R26). -/
theorem ctrlWord_reserved (c : Ctrl) : ctrlWord c &&& 0xFFFFFFFFFFFFFFFC#64 = 0#64 := by
  obtain ⟨ienDone, ienErr⟩ := c
  revert ienDone ienErr
  decide

/-! ### What keeps the port's invariant -/

section
variable {s : State}

/-- The invariant speaks of STATUS, `seq`, the working registers and CMD; what leaves these alone keeps it. -/
theorem PortInv.congr {t : State} (h : PortInv s) (hstatus : t.status = s.status) (hseq : t.seq = s.seq)
    (hw : t.w = s.w) (hcmd : t.cmd = s.cmd) : PortInv t where
  busy_iff_run := by rw [hstatus, hseq]; exact h.busy_iff_run
  cause_iff_err := by rw [hstatus]; exact h.cause_iff_err
  not_busy_and_done := by rw [hstatus]; exact h.not_busy_and_done
  reserved := ⟨statusWord_reserved _, ctrlWord_reserved _⟩
  running := by rw [hseq, hw]; exact h.running
  cmd_legal := by rw [hcmd]; exact h.cmd_legal

/-- A block that is idle, without flags and with CMD 0, meets the invariant whatever its working registers hold. -/
theorem portInv_of_reset_values (hstatus : s.status = ⟨false, false, false, .none⟩) (hseq : s.seq = .idle)
    (hcmd : s.cmd = 0#64) : PortInv s where
  busy_iff_run := by simp [hstatus, hseq]
  cause_iff_err := by simp [hstatus]
  not_busy_and_done := by simp [hstatus]
  reserved := ⟨statusWord_reserved _, ctrlWord_reserved _⟩
  running := fun hrun => absurd hseq hrun
  cmd_legal := .inl hcmd

theorem portInv_resetBlock (s : State) : PortInv (resetBlock s) := portInv_of_reset_values rfl rfl rfl

/-- A reject sets ERR and a cause together (R193). -/
theorem PortInv.reject {c : Cause} (h : PortInv s) (hc : c ≠ .none) : PortInv (reject c s) where
  busy_iff_run := h.busy_iff_run
  cause_iff_err := by simp [hc]
  not_busy_and_done := h.not_busy_and_done
  reserved := ⟨statusWord_reserved _, ctrlWord_reserved _⟩
  running := h.running
  cmd_legal := h.cmd_legal

/-- A write of STATUS clears ERR and CAUSE together, and only lowers DONE (R156). -/
theorem PortInv.writeStatus (h : PortInv s) (v : Word) : PortInv (writeStatus v s) where
  busy_iff_run := h.busy_iff_run
  cause_iff_err := by
    simp only [writeStatus_status, clearFlags_cause, clearFlags_err]
    split_ifs
    · simp
    · exact h.cause_iff_err
  not_busy_and_done := by
    rintro ⟨hbusy, hdone⟩
    have hdone' : s.status.done = true := by
      by_contra hd
      simp [hd] at hdone
    exact h.not_busy_and_done ⟨hbusy, hdone'⟩
  reserved := ⟨statusWord_reserved _, ctrlWord_reserved _⟩
  running := h.running
  cmd_legal := h.cmd_legal

/-- An acceptance takes the opcode of a legal word and, where its command needs it, a modulus that is not 0 (R153). -/
theorem PortInv.accept {v : Word} {c : Command} (h : PortInv s) (hd : decodeCommand v = .ok c)
    (hm : needsModulus c = true → s.modulus ≠ 0#64) : PortInv (accept v s) where
  busy_iff_run := by simp
  cause_iff_err := h.cause_iff_err
  not_busy_and_done := by simp
  reserved := ⟨statusWord_reserved _, ctrlWord_reserved _⟩
  running := fun _ => ⟨c, commandOfOpcode_of_decodeCommand hd, fun hc =>
    Nat.pos_of_ne_zero fun h0 => hm hc (BitVec.eq_of_toNat_eq h0)⟩
  cmd_legal := .inr ⟨c, hd⟩

/-- A completion lowers BUSY as it leaves RUN (R154). -/
theorem PortInv.complete (h : PortInv s) (v : Word) : PortInv (complete v s) where
  busy_iff_run := by simp
  cause_iff_err := h.cause_iff_err
  not_busy_and_done := by simp
  reserved := ⟨statusWord_reserved _, ctrlWord_reserved _⟩
  running := fun hrun => absurd rfl hrun
  cmd_legal := h.cmd_legal

/-- A micro-step stays in RUN, with the snapshot it had (R155). -/
theorem PortInv.microStep {w : Working} (h : PortInv s) (hrun : s.seq ≠ .idle) (hw : SameSnapshot s.w w)
    (pos : MicroPos) : PortInv (microStep w pos s) where
  busy_iff_run := by simpa using h.busy_iff_run.2 hrun
  cause_iff_err := h.cause_iff_err
  not_busy_and_done := h.not_busy_and_done
  reserved := ⟨statusWord_reserved _, ctrlWord_reserved _⟩
  running := fun _ => by
    obtain ⟨-, -, hm, hopc⟩ := hw
    simpa only [microStep_w, hm, hopc] using h.running hrun
  cmd_legal := h.cmd_legal

/-- A submission is dropped, rejected with a cause, or accepted (R196). -/
theorem PortInv.submitCommand (h : PortInv s) (v : Word) : PortInv (submitCommand v s) := by
  obtain ⟨-, hs⟩ | ⟨-, -, hs⟩ | ⟨-, -, -, hs⟩ | ⟨c, -, -, -, -, -, hs⟩ | ⟨c, -, -, hd, hm, hs⟩ := submitCommand_cases v s
  all_goals rw [hs]
  · exact h
  · exact h.reject (by decide)
  · exact h.reject (by decide)
  · exact h.reject (by decide)
  · exact h.accept hd hm

theorem PortInv.writeCtrl (h : PortInv s) (v : Word) : PortInv (writeCtrl v s) := by
  obtain ⟨-, hs⟩ | ⟨-, hs⟩ := writeCtrl_cases v s
  all_goals rw [hs]
  · exact portInv_resetBlock s
  · exact h.congr rfl rfl rfl rfl

variable {t : State}

theorem PortInv.exec {i : Instr} (h : PortInv s) (hi : exec i s = .next t) : PortInv t := by
  obtain ⟨u, hu, hcases⟩ := exec_cases i s
  cases hu.symm.trans hi
  obtain ⟨v, rfl⟩ | ⟨v, rfl⟩ | ⟨v, rfl⟩ | ⟨v, rfl⟩ | rfl | ⟨v, rfl⟩ | ⟨v, rfl⟩ | ⟨v, rfl⟩ := hcases
  · exact h.congr rfl rfl rfl rfl
  · exact h.congr rfl rfl rfl rfl
  · exact h.congr rfl rfl rfl rfl
  · exact h.congr rfl rfl rfl rfl
  · exact h
  · exact h.submitCommand v
  · exact h.writeStatus v
  · exact h.writeCtrl v

theorem PortInv.unitStep (h : PortInv s) (hs : unitStep s = .next t) : PortInv t := by
  obtain ⟨-, rfl⟩ | ⟨hrun, w, pos, hw, rfl⟩ | ⟨v, -, rfl⟩ := unitStep_cases hs
  · exact h
  · exact h.microStep hrun hw pos
  · exact h.complete v

theorem PortInv.perform {e : Event} (h : PortInv s) (he : perform e s = .next t) : PortInv t := by
  obtain ⟨i, -, hi⟩ | ⟨-, rfl⟩ | ⟨-, hu⟩ | ⟨-, rfl⟩ := perform_cases he
  · exact h.exec hi
  · exact portInv_resetBlock s
  · exact h.unitStep hu
  · exact h

theorem PortInv.step (h : PortInv s) (hs : step s = .next t) : PortInv t := by
  obtain ⟨-, hu⟩ | ⟨e, rest, -, he⟩ := step_cases s
  · exact h.unitStep (hu.symm.trans hs)
  · have hrest : PortInv { s with inputs := rest } := h.congr rfl rfl rfl rfl
    exact hrest.perform (he.symm.trans hs)

end

/-- Settles O41: each shared operation keeps the invariant, and a step is one of them. -/
theorem portInvariantIsKept : Obligations.PortInvariantIsKept :=
  ⟨portInv_of_reset_values rfl rfl rfl, fun _ _ h hs => h.step hs⟩

/-! ### The reset values -/

theorem holdsResetValues_reset : HoldsResetValues State.reset := ⟨rfl, rfl, rfl, rfl, rfl, rfl, rfl, rfl, rfl⟩

theorem holdsResetValues_resetBlock (s : State) : HoldsResetValues (resetBlock s) :=
  ⟨rfl, rfl, rfl, rfl, rfl, rfl, rfl, rfl, rfl⟩

/-- After a reset every register reads 0, written or not (R32). -/
theorem regRead_of_holdsResetValues {s : State} (h : HoldsResetValues s) (r : PortReg) : regRead r s = 0#64 := by
  obtain ⟨hopa, hopb, hmod, hres, hcmd, hstatus, hctrl, -, -⟩ := h
  cases r with
  | opa => exact hopa
  | opb => exact hopb
  | mod => exact hmod
  | res => exact hres
  | cmd => exact hcmd
  | status => rw [regRead, hstatus]; decide
  | ctrl => rw [regRead, hctrl]; decide
  | r7 => rfl

/-- A command that needs MOD, submitted straight after a reset, is rejected for MOD = 0 (R32, R191). -/
theorem exec_instrOfCommand_of_holdsResetValues {s : State} {c : Command} (h : HoldsResetValues s)
    (hc : needsModulus c = true) : exec (instrOfCommand c) s = .next (reject .modZero s) := by
  obtain ⟨-, -, hmod, -, -, hstatus, -, -, -⟩ := h
  rw [exec_instrOfCommand, submitCommand, decodeCommand_commandWord]
  simp [hstatus, hmod, hc]

/-- Settles O26: both resets are `resetBlock`, and MOD = 0 is what a read or a submission then finds. -/
theorem resetStateHoldsTheSpecValues : Obligations.ResetStateHoldsTheSpecValues := by
  refine ⟨holdsResetValues_reset, fun s => ⟨_, rfl, holdsResetValues_resetBlock s⟩,
    fun s => ⟨_, exec_wrCtrl_of_bit2 (by decide) s, holdsResetValues_resetBlock s⟩, fun s h => ⟨fun r => ?_, ?_, ?_⟩⟩
  · exact ⟨_, exec_readInstr r s, regRead_of_holdsResetValues h r⟩
  · exact ⟨_, exec_instrOfCommand_of_holdsResetValues (c := .mulmod) h rfl, rfl, rfl⟩
  · exact ⟨_, exec_instrOfCommand_of_holdsResetValues (c := .powmod) h rfl, rfl, rfl⟩

end Sys2Proof.Machine
end

section
/-! SUPPORT. The byte-addressed bus mapping (20_memory.md R52, R53): the eight bytes of a register's value put together
again, which accesses are transactions, and what an access does by the register it names. -/
namespace Sys2Proof.Machine

/-! ### The bytes of a register's value -/

theorem littleEndian_append (xs ys : List Byte) :
    littleEndian (xs ++ ys) = littleEndian xs + 256 ^ xs.length * littleEndian ys := by
  induction xs with
  | nil => simp [littleEndian]
  | cons x xs ih =>
    simp only [List.cons_append, littleEndian, ih, List.length_cons]
    ring

theorem toNat_byteAt (v : Word) (j : Nat) : (byteAt v j).toNat = v.toNat / 256 ^ j % 256 := by
  rw [byteAt, BitVec.extractLsb'_toNat, Nat.shiftRight_eq_div_pow, pow_mul]
  norm_num

/-- The lowest `n` bytes of a value, put together again, are the value modulo `256 ^ n` (R52). -/
theorem littleEndian_map_byteAt_range (v : Word) (n : Nat) :
    littleEndian ((List.range n).map (byteAt v)) = v.toNat % 256 ^ n := by
  induction n with
  | zero => simp [littleEndian, Nat.mod_one]
  | succ n ih =>
    have hlast : littleEndian [byteAt v n] = v.toNat / 256 ^ n % 256 := by simp [littleEndian, toNat_byteAt]
    rw [List.range_succ, List.map_append, List.map_singleton, littleEndian_append, ih, hlast, List.length_map,
      List.length_range, pow_succ, Nat.mod_mul]

/-- The eight bytes of a value are the value again (R52). -/
@[simp] theorem ofNat_littleEndian_bytesOf (v : Word) : BitVec.ofNat 64 (littleEndian (bytesOf v)) = v := by
  have hlt : v.toNat < 256 ^ 8 := v.isLt
  rw [bytesOf, littleEndian_map_byteAt_range, Nat.mod_eq_of_lt hlt, BitVec.ofNat_toNat, BitVec.setWidth_eq]

@[simp] theorem length_bytesOf (v : Word) : (bytesOf v).length = 8 := by simp [bytesOf]

theorem getElem?_bytesOf (v : Word) {j : Nat} (hj : j < 8) : (bytesOf v)[j]? = some (byteAt v j) := by
  simp [bytesOf, hj]

/-! ### Which accesses are transactions -/

/-- The aligned 64-bit access at offset `8 * idx` is one of register `idx` (R52). -/
theorem busRegister_of_index (idx : BitVec 3) :
    busRegister (Config.mmbBase + 8 * idx.toNat) 8 = some (portRegOfIndex idx) := by
  have hidx : idx.toNat < 8 := idx.isLt
  have hwf : busAccessWellFormed (8 * idx.toNat) 8 = true := by
    simp only [busAccessWellFormed, Nat.mul_mod_right, beq_self_eq_true, Bool.true_and, decide_eq_true_eq]
    omega
  simp [busRegister, hwf]

/-- An access of another width is one of no register, nor is a misaligned one, `MMB_BASE` being aligned (R53). -/
theorem busRegister_eq_none {address size : Nat} (h : size ≠ 8 ∨ address % 8 ≠ 0) : busRegister address size = none := by
  refine if_neg fun ⟨hbase, hwf⟩ => ?_
  simp only [busAccessWellFormed, Bool.and_eq_true, beq_iff_eq, decide_eq_true_eq] at hwf
  obtain ⟨⟨hsize, hoffset⟩, -⟩ := hwf
  simp only [Config.mmbBase] at hbase hoffset
  omega

/-! ### What an access does -/

section
variable {address : Nat} {r : PortReg}

theorem perform_busRead_of_some {size : Nat} (h : busRegister address size = some r) (s : State) :
    perform (.busRead address size) s = exec (readInstr r) s := by
  simp [perform, actionOf, busReadAction, h]

theorem perform_busRead_of_none {size : Nat} (h : busRegister address size = none) (s : State) :
    perform (.busRead address size) s = .refused .notATransaction := by
  simp [perform, actionOf, busReadAction, h]

theorem perform_busWrite_of_some {bytes : List Byte} (h : busRegister address bytes.length = some r) (s : State) :
    perform (.busWrite address bytes) s = exec (writeInstr r (BitVec.ofNat 64 (littleEndian bytes))) s := by
  simp [perform, actionOf, busWriteAction, h]

theorem perform_busWrite_of_none {bytes : List Byte} (h : busRegister address bytes.length = none) (s : State) :
    perform (.busWrite address bytes) s = .refused .notATransaction := by
  simp [perform, actionOf, busWriteAction, h]

end

/-- Settles O29: the access at offset `8 * idx` names register `idx` and carries the value its bytes make up; another
width or a misaligned address names no register. -/
theorem alignedBusAccessesAreTransactions : Obligations.AlignedBusAccessesAreTransactions := by
  refine ⟨fun idx v s => ⟨?_, ?_⟩, fun v j hj => ?_, fun address size s h => ⟨?_, fun bytes hlen => ?_⟩⟩
  · have hreg : busRegister (Config.mmbBase + 8 * idx.toNat) (bytesOf v).length = some (portRegOfIndex idx) := by
      rw [length_bytesOf, busRegister_of_index]
    rw [perform_busWrite_of_some hreg, ofNat_littleEndian_bytesOf]
  · exact perform_busRead_of_some (busRegister_of_index idx) s
  · exact getElem?_bytesOf v hj
  · exact perform_busRead_of_none (busRegister_eq_none h) s
  · subst hlen
    exact perform_busWrite_of_none (busRegister_eq_none h) s

end Sys2Proof.Machine
end

section
/-! SUPPORT. The decoder on the words of both formats (30_encoding.md R70 to R80): a legal command word is the word of its
command, and a transaction word decodes by its header. -/
namespace Sys2Proof

/-! ### Command words -/

/-- A command word with RSV = 0 is its opcode field, extended with zeros (R70). -/
theorem setWidth_opcField_of_rsvField {w : BitVec 64} (h : rsvField w = 0#60) : (opcField w).setWidth 64 = w := by
  have hrsv : w.toNat / 2 ^ 4 % 2 ^ 60 = 0 := by
    simpa [rsvField, Nat.shiftRight_eq_div_pow] using congrArg BitVec.toNat h
  have hlt : w.toNat < 2 ^ 64 := w.isLt
  apply BitVec.eq_of_toNat_eq
  simp only [opcField, BitVec.toNat_setWidth, BitVec.extractLsb'_toNat, Nat.shiftRight_zero]
  omega

/-- A reserved bit makes a command word illegal, whatever its opcode (R72). -/
theorem decodeCommand_of_rsvField_ne {w : BitVec 64} (h : rsvField w ≠ 0#60) :
    decodeCommand w = .error .reservedBits :=
  if_pos h

theorem rsvField_of_decodeCommand {w : BitVec 64} {c : Command} (h : decodeCommand w = .ok c) : rsvField w = 0#60 := by
  by_contra hrsv
  cases (decodeCommand_of_rsvField_ne hrsv).symm.trans h

/-- The words that decode to a command are the four of the OPC map (R71, R77). -/
theorem decodeCommand_eq_ok_iff {w : BitVec 64} {c : Command} : decodeCommand w = .ok c ↔ w = commandWord c := by
  refine ⟨fun h => ?_, ?_⟩
  · have hopc : opcField w = opcodeOf c := opcodeOf_of_commandOfOpcode (commandOfOpcode_of_decodeCommand h)
    rw [commandWord, ← hopc, setWidth_opcField_of_rsvField (rsvField_of_decodeCommand h)]
  · rintro rfl
    exact decodeCommand_commandWord c

/-- Every word but the commands' own is illegal (R77). -/
theorem exists_decodeCommand_eq_error_iff {w : BitVec 64} :
    (∃ e, decodeCommand w = .error e) ↔ ∀ c, w ≠ commandWord c := by
  simp only [ne_eq, ← decodeCommand_eq_ok_iff]
  cases decodeCommand w with
  | error e => simp
  | ok c => simp

/-- The four command words as numbers (R71). -/
theorem forall_ne_commandWord_iff {w : BitVec 64} :
    (∀ c, w ≠ commandWord c) ↔ w ≠ 1#64 ∧ w ≠ 2#64 ∧ w ≠ 3#64 ∧ w ≠ 4#64 := by
  refine ⟨fun h => ⟨h .mulmod, h .powmod, h .isqrt, h .isprime⟩, fun ⟨h1, h2, h3, h4⟩ c => ?_⟩
  cases c with
  | mulmod => exact h1
  | powmod => exact h2
  | isqrt => exact h3
  | isprime => exact h4

/-- Settles O3: a word decodes to a command exactly when it is that command's word, and is illegal when it is no
command's. -/
theorem exactlyFourWordsAreCommands : Obligations.ExactlyFourWordsAreCommands := fun _ =>
  ⟨decodeCommand_eq_ok_iff, decodeCommand_eq_ok_iff, decodeCommand_eq_ok_iff, decodeCommand_eq_ok_iff,
    exists_decodeCommand_eq_error_iff.trans forall_ne_commandWord_iff, fun hrsv => ⟨_, decodeCommand_of_rsvField_ne hrsv⟩⟩

/-! ### Transaction words -/

/-- A word with WE = 1 is the write of its register, for every DATA (R75, R80). -/
theorem decode_portWord_write (r : PortReg) (v : Word) : decode (.port (portWord true r v)) = .ok (writeInstr r v) := by
  rw [decode, decodePort, weField_portWord, idxField_portWord, dataField_portWord, portRegOfIndex_indexOfPortReg, if_pos rfl]

theorem portWordWellFormed_portWord (we : Bool) (r : PortReg) (v : Word) :
    portWordWellFormed (portWord we r v) = (we || v == 0#64) := by
  change (weField (portWord we r v) || dataField (portWord we r v) == 0#64) = _
  rw [weField_portWord, dataField_portWord]

/-- A word with WE = 0 and DATA 0 is the read of its register (R75, R80). -/
theorem decode_portWord_read (r : PortReg) : decode (.port (portWord false r 0#64)) = .ok (readInstr r) := by
  rw [decode, decodePort, weField_portWord, idxField_portWord, portWordWellFormed_portWord, portRegOfIndex_indexOfPortReg,
    if_neg Bool.false_ne_true, if_pos (by simp)]

/-- The transaction word of the register an index names has that index in its header (R56, R75). -/
theorem portWord_portRegOfIndex (we : Bool) (idx : BitVec 3) (v : Word) :
    portWord we (portRegOfIndex idx) v = BitVec.ofBool we ++ idx ++ v := by
  rw [portWord, indexOfPortReg_portRegOfIndex]

/-- Settles O5: each header is that of the transaction word of the register its index names; the two ignored writes and
the read of index 7 are arms of `exec`. -/
theorem everyPortHeaderIsATransaction : Obligations.EveryPortHeaderIsATransaction := by
  refine ⟨fun idx v => ⟨?_, ?_⟩, fun v s => ⟨rfl, rfl, rfl⟩⟩
  · have hword : (1#1 ++ idx ++ v : BitVec 68) = portWord true (portRegOfIndex idx) v :=
      (portWord_portRegOfIndex true idx v).symm
    rw [hword, decode_portWord_write]
  · have hword : (0#1 ++ idx ++ 0#64 : BitVec 68) = portWord false (portRegOfIndex idx) 0#64 :=
      (portWord_portRegOfIndex false idx 0#64).symm
    rw [hword, decode_portWord_read]

end Sys2Proof
end

section
/-! SUPPORT. The datapath primitives on their domain (40_datapath_primitives.md R90 to R95): the adder splits the true
sum, the compensation constant is the weight a wrap loses, and the compensated addition is the modular sum. -/
namespace Sys2Proof.Machine

/-! ### The adder and its carry -/

theorem wrap64_of_lt {v : Nat} (h : v < 2 ^ 64) : wrap64 v = v := Nat.mod_eq_of_lt h

/-- A sum of two words that wraps loses the weight 2^64 once (R91). -/
theorem wrap64_add_of_wrap {s t : Nat} (hs : s < 2 ^ 64) (ht : t < 2 ^ 64) (h : 2 ^ 64 ≤ s + t) :
    wrap64 (s + t) = s + t - 2 ^ 64 := by
  unfold wrap64
  omega

/-- A sum of two words wraps exactly when the wrapped sum is below the first of them (R92). -/
theorem wrap64_add_lt_left_iff {s t : Nat} (hs : s < 2 ^ 64) (ht : t < 2 ^ 64) :
    wrap64 (s + t) < s ↔ 2 ^ 64 ≤ s + t := by
  by_cases h : 2 ^ 64 ≤ s + t
  · rw [wrap64_add_of_wrap hs ht h]
    omega
  · rw [wrap64_of_lt (Nat.lt_of_not_le h)]
    omega

/-- The adder splits the true sum into 64 bits and a carry (R91). -/
theorem add_eq_add64 {s t : Nat} (hs : s < 2 ^ 64) (ht : t < 2 ^ 64) :
    s + t = (add64 s t).1 + 2 ^ 64 * (add64 s t).2 := by
  change s + t = wrap64 (s + t) + 2 ^ 64 * carry64 s t
  unfold carry64
  split
  case isTrue h =>
    rw [wrap64_add_of_wrap hs ht h]
    omega
  case isFalse h =>
    rw [wrap64_of_lt (Nat.lt_of_not_le h)]
    omega

/-- Settles O46: the carry is 1 exactly at a wrap, and so is the wrapped sum below `s`. -/
theorem adderCarryIsTheWrap : Obligations.AdderCarryIsTheWrap := fun s t hs ht =>
  ⟨add_eq_add64 hs ht, Nat.mod_lt _ (by decide), carry64_eq_one_iff s t,
    (carry64_eq_one_iff s t).trans (wrap64_add_lt_left_iff hs ht).symm⟩

/-! ### The compensation constant -/

theorem neg64_eq {m : Nat} (hm : 0 < m) : neg64 m = 2 ^ 64 - m := Nat.mod_eq_of_lt (by omega)

/-- The compensation constant is the weight of a wrap, reduced (R90). -/
theorem wrapc_eq_two_pow_mod {m : Nat} (hm : 0 < m) (hm64 : m < 2 ^ 64) : wrapc m = 2 ^ 64 % m := by
  rw [wrapc, rem, neg64_eq hm, ← Nat.mod_eq_sub_mod hm64.le]

/-- A power of two divides the weight of a wrap, so nothing is left to compensate (R90). -/
theorem wrapc_two_pow {k : Nat} (hk : 2 ^ k < 2 ^ 64) : wrapc (2 ^ k) = 0 := by
  have hle : k ≤ 64 := ((Nat.pow_lt_pow_iff_right (by decide)).1 hk).le
  rw [wrapc_eq_two_pow_mod (Nat.two_pow_pos k) hk]
  exact Nat.mod_eq_zero_of_dvd (Nat.pow_dvd_pow 2 hle)

/-- Above 2^63 the constant needs no reduction (R90). -/
theorem wrapc_of_two_pow_63_lt {m : Nat} (hm : 2 ^ 63 < m) : wrapc m = 2 ^ 64 - m := by
  rw [wrapc, rem, neg64_eq (by omega), Nat.mod_eq_of_lt (by omega)]

theorem wrapc_lt {m : Nat} (hm : 0 < m) : wrapc m < m := Nat.mod_lt _ hm

/-- The constant fits register C, whatever the modulus. -/
theorem wrapc_lt_two_pow (m : Nat) : wrapc m < 2 ^ 64 :=
  (Nat.mod_le _ _).trans_lt (Nat.mod_lt _ (by decide))

/-- The load of a mulmod puts the constant in C (R111). -/
theorem toNat_mulmodLoad_c (a b m : Word) (w : Working) : (mulmodLoad a b m w).c.toNat = wrapc m.toNat :=
  (BitVec.toNat_ofNat _ _).trans (Nat.mod_eq_of_lt (wrapc_lt_two_pow m.toNat))

/-- Settles O45: the constant is the weight of a wrap, reduced, and a pass of a mulmod leaves C as the load set it. -/
theorem compensationConstantIsTheLostWeight : Obligations.CompensationConstantIsTheLostWeight := by
  intro m hm hm64
  refine ⟨neg64_eq hm, ?_, wrapc_eq_two_pow_mod hm hm64, wrapc_lt hm, ?_, wrapc_of_two_pow_63_lt, ?_⟩
  · rw [wrapc, rem, neg64_eq hm]
  · rintro k rfl
    exact wrapc_two_pow hm64
  · rintro a b M w rfl
    rw [mulmodPass_c]
    exact ⟨toNat_mulmodLoad_c a b M w, toNat_mulmodLoad_c a b M w⟩

/-! ### The compensated addition -/

/-- The addition ends in a reduction, whatever the constant at hand (R93). -/
theorem addmodWith_lt (c s t : Nat) {m : Nat} (hm : 0 < m) : addmodWith c s t m < m := Nat.mod_lt _ hm

section
variable {s t m : Nat} (hm : m < 2 ^ 64) (hs : s < m) (ht : t < m)
include hs ht

/-- Two residues can wrap only where the modulus is above 2^63 (R94). -/
theorem two_pow_63_lt_of_wrap (h : 2 ^ 64 ≤ s + t) : 2 ^ 63 < m := by omega

include hm

/-- Where the sum of two residues wraps, the compensating addition gives the true sum less the modulus (R94). -/
theorem wrap64_add_wrapc (h : 2 ^ 64 ≤ s + t) : wrap64 (s + t) + wrapc m = s + t - m := by
  rw [wrap64_add_of_wrap (hs.trans hm) (ht.trans hm) h, wrapc_of_two_pow_63_lt (two_pow_63_lt_of_wrap hs ht h)]
  omega

/-- That true sum less the modulus fits 64 bits: the compensating addition never wraps (R94). -/
theorem wrap64_add_wrapc_lt (h : 2 ^ 64 ≤ s + t) : wrap64 (s + t) + wrapc m < 2 ^ 64 := by
  rw [wrap64_add_wrapc hm hs ht h]
  omega

/-- The compensated addition of two residues is their modular sum (R94). -/
theorem addmod_eq : addmod s t m = (s + t) % m := by
  by_cases h : 2 ^ 64 ≤ s + t
  · have hle : m ≤ s + t := by omega
    rw [addmod, addmodWith_of_wrap _ _ h, wrap64_of_lt (wrap64_add_wrapc_lt hm hs ht h), wrap64_add_wrapc hm hs ht h,
      rem, ← Nat.mod_eq_sub_mod hle]
  · rw [addmod, addmodWith_of_not_wrap _ _ (Nat.lt_of_not_le h), rem]

end

/-- Settles O47: a wrap is undone by the constant, without a second one. -/
theorem compensatedAdditionIsExact : Obligations.CompensatedAdditionIsExact := by
  intro s t m hpos hm hs ht
  refine ⟨addmod_eq hm hs ht, addmodWith_lt _ _ _ hpos, fun hcarry => ?_⟩
  have hwrap : 2 ^ 64 ≤ s + t := (carry64_eq_one_iff s t).1 hcarry
  exact ⟨wrap64_add_wrapc_lt hm hs ht hwrap, two_pow_63_lt_of_wrap hs ht hwrap⟩

theorem carry64_self_eq_one_iff (t : Nat) : carry64 t t = 1 ↔ 2 ^ 63 ≤ t := by
  rw [carry64_eq_one_iff]
  omega

/-- The compensated doubling of a residue is its modular double (R95). -/
theorem dblmod_eq {t m : Nat} (hm : m < 2 ^ 64) (ht : t < m) : dblmod t m = 2 * t % m := by
  rw [dblmod, addmod_eq hm ht ht, two_mul]

/-- Settles O48: the doubling is the addition of `t` to itself. -/
theorem compensatedDoublingIsExact : Obligations.CompensatedDoublingIsExact := fun t _ _ hm ht =>
  ⟨rfl, dblmod_eq hm ht, carry64_self_eq_one_iff t⟩

end Sys2Proof.Machine
end

section
/-! SUPPORT. The loop of the mulmod micro-program (41_mulmod.md R111): what holds of the working registers after the load
and a number of passes (R113), for the MULMOD command and for POWMOD's multiply and square alike. -/
namespace Sys2Proof.Machine

/-! ### The number of bits of an operand -/

/-- `bitlen v` is the least `n` with `v < 2^n` (R11). -/
theorem bitlen_le_iff {v n : Nat} : bitlen v ≤ n ↔ v < 2 ^ n := by
  by_cases hv : v = 0
  · simp [bitlen, hv]
  · rw [bitlen, if_neg hv, Nat.succ_le_iff, Nat.log2_lt hv]

/-- A number moved right is 0 once all its bits are out. -/
theorem shiftRight_eq_zero_iff_bitlen_le {v n : Nat} : v >>> n = 0 ↔ bitlen v ≤ n := by
  rw [Nat.shiftRight_eq_div_pow, Nat.div_eq_zero_iff_lt (Nat.two_pow_pos n), bitlen_le_iff]

/-- The smaller of two words has at most 64 bits (R113). -/
theorem bitlen_min_toNat_le (a b : Word) : bitlen (min a.toNat b.toNat) ≤ 64 :=
  bitlen_le_iff.2 ((Nat.min_le_left _ _).trans_lt a.isLt)

/-! ### The invariant after a given number of passes -/

/-- R113 for `j` passes: the body of `MulmodHead` with its number of passes named. -/
structure MulmodAfter (a b m j : Nat) (w : Working) : Prop where
  pos : 0 < m
  c : w.c.toNat = wrapc m
  t_lt : w.t.toNat < m
  k : w.k.toNat = min a b >>> j
  t : w.k.toNat ≠ 0 → w.t.toNat = max a b * 2 ^ j % m
  acc : w.acc.toNat = max a b * (min a b % 2 ^ j) % m

section
variable {a b j : Nat} {w : Working}

theorem MulmodAfter.acc_lt {m : Nat} (h : MulmodAfter a b m j w) : w.acc.toNat < m :=
  h.acc ▸ Nat.mod_lt _ h.pos

theorem mulmodHead_iff {m : Nat} : MulmodHead a b m w ↔ ∃ j, MulmodAfter a b m j w := by
  constructor
  · rintro ⟨hpos, hc, -, htlt, j, hk, ht, hacc⟩
    exact ⟨j, hpos, hc, htlt, hk, ht, hacc⟩
  · rintro ⟨j, h⟩
    exact ⟨h.pos, h.c, h.acc_lt, h.t_lt, j, h.k, h.t, h.acc⟩

/-- K is used up exactly when all bits of the smaller operand are scanned (R113). -/
theorem MulmodAfter.k_eq_zero_iff {m : Nat} (h : MulmodAfter a b m j w) : w.k = 0#64 ↔ bitlen (min a b) ≤ j := by
  rw [← BitVec.toNat_inj, h.k, BitVec.toNat_zero, shiftRight_eq_zero_iff_bitlen_le]

/-- At the exit of the loop ACC is the product reduced (R113). -/
theorem MulmodAfter.product {m : Nat} (h : MulmodAfter a b m j w) (hk : w.k = 0#64) : w.acc.toNat = a * b % m := by
  have hlt : min a b < 2 ^ j := bitlen_le_iff.1 (h.k_eq_zero_iff.1 hk)
  rw [h.acc, Nat.mod_eq_of_lt hlt, mul_comm, min_mul_max]

/-! ### A pass -/

variable {m : Word}

/-- The compensated sum of two residues, as a mulmod with its constant in C stores it, is their modular sum (R94). -/
theorem toNat_ofNat_addmodWith (hc : w.c.toNat = wrapc m.toNat) {s t : Nat} (hs : s < m.toNat) (ht : t < m.toNat) :
    (BitVec.ofNat 64 (addmodWith w.c.toNat s t m.toNat)).toNat = (s + t) % m.toNat := by
  have hlt : (s + t) % m.toNat < 2 ^ 64 := (Nat.mod_lt _ (Nat.zero_lt_of_lt hs)).trans m.isLt
  rw [hc, ← addmod, addmod_eq m.isLt hs ht, BitVec.toNat_ofNat, Nat.mod_eq_of_lt hlt]

theorem MulmodAfter.toNat_mulmodPass_k (h : MulmodAfter a b m.toNat j w) :
    (mulmodPass m w).k.toNat = min a b >>> (j + 1) := by
  rw [mulmodPass_k, BitVec.toNat_ushiftRight, h.k, Nat.shiftRight_add]

/-- The bit that a pass finds lowest in K is bit `j` of the smaller operand. -/
theorem MulmodAfter.getLsbD_zero_k {m : Nat} (h : MulmodAfter a b m j w) : w.k.getLsbD 0 = (min a b).testBit j := by
  rw [BitVec.getLsbD, h.k, Nat.testBit_shiftRight, add_zero]

/-- A pass adds the weight of the scanned bit to ACC (R111). -/
theorem MulmodAfter.toNat_mulmodPass_acc (h : MulmodAfter a b m.toNat j w) (hk : w.k ≠ 0#64) :
    (mulmodPass m w).acc.toNat = max a b * (min a b % 2 ^ (j + 1)) % m.toNat := by
  have ht : w.t.toNat = max a b * 2 ^ j % m.toNat := h.t fun h0 => hk (BitVec.eq_of_toNat_eq h0)
  rw [mulmodPass_acc, mulmodAccumulate_acc, h.getLsbD_zero_k, Nat.mod_pow_succ, ← Nat.toNat_testBit]
  cases hbit : (min a b).testBit j with
  | false => simpa using h.acc
  | true =>
    rw [if_pos rfl, toNat_ofNat_addmodWith h.c h.acc_lt h.t_lt, h.acc, ht, ← Nat.add_mod, ← Nat.mul_add]
    simp [add_comm]

/-- T stays a residue through a pass, whether it doubles or not (R113). -/
theorem MulmodAfter.toNat_mulmodPass_t (h : MulmodAfter a b m.toNat j w) :
    (mulmodPass m w).t.toNat =
      if (mulmodPass m w).k = 0#64 then w.t.toNat else (w.t.toNat + w.t.toNat) % m.toNat := by
  rw [mulmodPass_t, mulmodPass_k]
  split
  · rfl
  · exact toNat_ofNat_addmodWith h.c h.t_lt h.t_lt

/-- The load starts the invariant, with no pass done (R111, R113). -/
theorem mulmodAfter_mulmodLoad (a b : Word) (hm : m ≠ 0#64) (w : Working) :
    MulmodAfter a.toNat b.toNat m.toNat 0 (mulmodLoad a b m w) := by
  have hpos : 0 < m.toNat := BitVec.toNat_pos_of_ne_zero hm
  have ht : (mulmodLoad a b m w).t.toNat = max a.toNat b.toNat % m.toNat := by
    have hlt : max a.toNat b.toNat % m.toNat < 2 ^ 64 := (Nat.mod_lt _ hpos).trans m.isLt
    exact (BitVec.toNat_ofNat _ _).trans (Nat.mod_eq_of_lt hlt)
  have hk : (mulmodLoad a b m w).k.toNat = min a.toNat b.toNat :=
    (BitVec.toNat_ofNat _ _).trans (Nat.mod_eq_of_lt ((Nat.min_le_left _ _).trans_lt a.isLt))
  exact {
    pos := hpos
    c := toNat_mulmodLoad_c a b m w
    t_lt := ht ▸ Nat.mod_lt _ hpos
    k := hk
    t := fun _ => by rw [ht, pow_zero, mul_one]
    acc := by rw [pow_zero, Nat.mod_one, mul_zero, Nat.zero_mod]; rfl }

/-- A pass at a K that is not 0 keeps the invariant, one pass further on (R113). -/
theorem MulmodAfter.mulmodPass (h : MulmodAfter a b m.toNat j w) (hk : w.k ≠ 0#64) :
    MulmodAfter a b m.toNat (j + 1) (mulmodPass m w) where
  pos := h.pos
  c := by rw [mulmodPass_c, h.c]
  t_lt := by
    rw [h.toNat_mulmodPass_t]
    split
    · exact h.t_lt
    · exact Nat.mod_lt _ h.pos
  k := h.toNat_mulmodPass_k
  t hk' := by
    have ht : w.t.toNat = max a b * 2 ^ j % m.toNat := h.t fun h0 => hk (BitVec.eq_of_toNat_eq h0)
    rw [h.toNat_mulmodPass_t, if_neg fun h0 => hk' (congrArg BitVec.toNat h0), ht, ← Nat.add_mod, pow_succ, mul_two,
      Nat.mul_add]
  acc := h.toNat_mulmodPass_acc hk

end

/-- The invariant after the load and `j` passes, up to the number of bits of the smaller operand (R113). -/
theorem mulmodAfter_iterate_mulmodPass (a b : Word) {m : Word} (hm : m ≠ 0#64) (w : Working) {j : Nat}
    (hj : j ≤ bitlen (min a.toNat b.toNat)) :
    MulmodAfter a.toNat b.toNat m.toNat j ((mulmodPass m)^[j] (mulmodLoad a b m w)) := by
  induction j with
  | zero => exact mulmodAfter_mulmodLoad a b hm w
  | succ j ih =>
    have h := ih (Nat.le_of_succ_le hj)
    rw [Function.iterate_succ_apply']
    exact h.mulmodPass fun hk => Nat.not_le_of_lt hj (h.k_eq_zero_iff.1 hk)

/-- Settles O50, from the invariant by induction over the passes: T is one doubling behind only once K is 0. -/
theorem mulmodPassesKeepTheLoopInvariant : Obligations.MulmodPassesKeepTheLoopInvariant := by
  intro a b m w j hm hj k0 t0 v
  have h : MulmodAfter a.toNat b.toNat m.toNat j v := mulmodAfter_iterate_mulmodPass a b hm w hj
  have hend : v.k = 0#64 ↔ j = bitlen k0 := h.k_eq_zero_iff.trans (le_antisymm_iff.trans (and_iff_right hj)).symm
  have ht : j < bitlen k0 → v.t.toNat = t0 * 2 ^ j % m.toNat := fun hlt =>
    h.t fun hk => hlt.ne (hend.1 (BitVec.eq_of_toNat_eq hk))
  exact ⟨h.k, h.acc, ht, h.acc_lt, h.t_lt, hend, fun hj => h.product (hend.2 hj), bitlen_min_toNat_le a b⟩

end Sys2Proof.Machine
end

section
/-! SUPPORT. A command from its acceptance to its completion, the unit alone stepping (45_host_control.md R153 to R155), and
the mulmod micro-program run to its return (41_mulmod.md R111, R112). -/
namespace Sys2Proof.Machine

/-! ### The unit does not see the events still to come -/

theorem mulmodEnter_withInputs {use : MulUse} {a b : Word} {s t : State} (h : mulmodEnter use a b s = .next t)
    (l : List Event) : mulmodEnter use a b { s with inputs := l } = .next { t with inputs := l } := by
  obtain ⟨hm, rfl⟩ := mulmodEnter_cases h
  exact if_neg hm

/-- The exponent used up, POWMOD goes back to the head of its loop (R121). -/
theorem powmodShiftStep_of_pe_eq_zero {s : State} (h : (powmodShift s.w).pe = 0#64) :
    powmodShiftStep s = .next (microStep (powmodShift s.w) .powLoop s) :=
  if_pos h

/-- A bit of the exponent left, POWMOD enters the square (R121). -/
theorem powmodShiftStep_of_pe_ne_zero {s : State} (h : (powmodShift s.w).pe ≠ 0#64) :
    powmodShiftStep s =
      mulmodEnter .powSquare s.w.pb s.w.pb (microStep (powmodShift s.w) .powLoop s) :=
  if_neg h

/-- A step of the unit is the same whatever events are still to come, and leaves them there (R155). -/
theorem unitStep_withInputs {s t : State} (h : unitStep s = .next t) (l : List Event) :
    unitStep { s with inputs := l } = .next { t with inputs := l } := by
  unfold unitStep at h ⊢
  dsimp only
  cases hseq : s.seq with
  | idle => rw [hseq] at h; cases h; simp only [hseq]
  | run pos =>
    rw [hseq] at h
    cases pos with
    | load =>
      simp only [startOperation] at h ⊢
      split at h
      · exact mulmodEnter_withInputs h l
      · cases h; rfl
      · cases h; rfl
      · simp only [isprimeStart, isqrtEnter] at h ⊢
        split_ifs at h ⊢ <;> cases h <;> rfl
      · cases h
    | mulLoop use =>
      simp only [mulmodLoopStep] at h ⊢
      split_ifs at h ⊢ <;> cases h
      · cases use <;> rfl
      · rfl
    | powLoop =>
      simp only [powmodLoopStep] at h ⊢
      split_ifs at h ⊢
      · cases h; rfl
      · exact mulmodEnter_withInputs h l
      · cases h; rfl
    | powShift =>
      by_cases hpe : (powmodShift s.w).pe = 0#64
      · rw [powmodShiftStep_of_pe_eq_zero hpe] at h
        cases h
        exact powmodShiftStep_of_pe_eq_zero hpe
      · rw [powmodShiftStep_of_pe_ne_zero hpe] at h
        exact (powmodShiftStep_of_pe_ne_zero (s := { s with inputs := l }) hpe).trans (mulmodEnter_withInputs h l)
    | sqrtLoop use =>
      simp only [isqrtLoopStep] at h ⊢
      split_ifs at h ⊢ <;> cases h
      · cases use <;> rfl
      · rfl
    | primeLoop =>
      simp only [isprimeLoopStep] at h ⊢
      split_ifs at h ⊢ <;> cases h <;> rfl
    | ready v => cases h; rfl

/-! ### Runs of the unit alone -/

/-- `n + 1` steps of the unit are one, and then `n` from where it ends. -/
theorem performAll_replicate_unitStep_succ {s t : State} (h : unitStep s = .next t) (n : Nat) :
    performAll (.replicate (n + 1) .unitStep) s = performAll (.replicate n .unitStep) t := by
  simp only [List.replicate_succ, performAll, perform, actionOf, h]

/-- `n + 1` steps of the unit are `n`, and then one from where these end. -/
theorem performAll_replicate_unitStep_succ' {n : Nat} {s t u : State}
    (h : performAll (.replicate n .unitStep) s = .next t) (hstep : unitStep t = .next u) :
    performAll (.replicate (n + 1) .unitStep) s = .next u := by
  rw [List.replicate_add, performAll_append h]
  exact performAll_replicate_unitStep_succ hstep 0

/-- A run begins with the machine's step. -/
theorem run_succ_of_step {M : Host.Core} {s t : M.State} (h : M.step s = .next t) (n : Nat) :
    M.run (n + 1) s = M.run n t := by
  simp only [Host.Core.run, h]

/-- The machine with nothing but `n` steps of the unit ahead takes them and has no event left. -/
theorem run_replicate_unitStep {n : Nat} {s u : State} (h : performAll (.replicate n .unitStep) s = .next u) :
    Host.Core.run Sys2Proof.core n { s with inputs := .replicate n .unitStep } = .next { u with inputs := [] } := by
  induction n generalizing s with
  | zero => cases h; rfl
  | succ n ih =>
    cases hs : unitStep s with
    | next t =>
      rw [performAll_replicate_unitStep_succ hs] at h
      have hstep : Sys2Proof.core.step { s with inputs := .replicate (n + 1) .unitStep } =
          .next { t with inputs := .replicate n .unitStep } := unitStep_withInputs hs _
      exact (run_succ_of_step hstep n).trans (ih h)
    | fault r => simp [List.replicate_succ, performAll, perform, actionOf, hs] at h
    | refused r => simp [List.replicate_succ, performAll, perform, actionOf, hs] at h

/-! ### From the acceptance to the completion -/

section
variable {c : Command} {s : State}

/-- In the idle, fault-free state a command that has the modulus it needs is accepted (R152, R153). -/
theorem submitCommand_commandWord_eq_accept (herr : s.status.err = false) (hbusy : s.status.busy = false)
    (hm : needsModulus c = true → s.modulus ≠ 0#64) :
    submitCommand (commandWord c) s = accept (commandWord c) s := by
  have hmod : ¬ (needsModulus c && s.modulus == 0#64) = true := by simpa using hm
  simp [submitCommand, herr, hbusy, decodeCommand_commandWord, hmod]

/-- From idle, an acceptance and a completion together leave STATUS as it was, with DONE set (R153, R154). -/
theorem completeFlags_acceptFlags {st : Status} (hbusy : st.busy = false) :
    completeFlags (acceptFlags st) = { st with done := true } := by
  obtain ⟨busy, done, err, cause⟩ := st
  cases hbusy
  rfl

/-- The opcode that an acceptance latches selects the command (R71, R153). -/
theorem commandOfOpcode_accept (c : Command) (s : State) :
    commandOfOpcode (accept (commandWord c) s).w.opc = some c :=
  commandOfOpcode_of_decodeCommand (decodeCommand_commandWord c)

theorem unitStep_ready {v : Word} (hseq : s.seq = .run (.ready v)) : unitStep s = .next (complete v s) := by
  rw [unitStep, hseq]

/-- An accepted command whose micro-program returns after `n` steps of the unit is complete one step later (R154). -/
theorem run_complete_of_ready {n : Nat} {w : Working} {v : Word}
    (h : performAll (.replicate n .unitStep) s = .next (microStep w (.ready v) s)) :
    Host.Core.run Sys2Proof.core (n + 1) { s with inputs := .replicate (n + 1) .unitStep } =
      .next { complete v (microStep w (.ready v) s) with inputs := [] } :=
  run_replicate_unitStep (performAll_replicate_unitStep_succ' h (unitStep_ready rfl))

end

/-! ### The mulmod micro-program from its load to its return -/

section
variable {use : MulUse} {s : State}

/-- The unit at the head of the mulmod loop, a bit of K left: a pass (R111). -/
theorem unitStep_mulLoop_of_k_ne_zero (hseq : s.seq = .run (.mulLoop use)) (hm : s.w.m ≠ 0#64) (hk : s.w.k ≠ 0#64) :
    unitStep s = .next (microStep (mulmodPass s.w.m s.w) (.mulLoop use) s) := by
  rw [unitStep, hseq]
  exact (if_neg hk).trans (if_neg hm)

/-- The unit at the head of the mulmod loop, no bit of K left: the return (R111). -/
theorem unitStep_mulLoop_of_k_eq_zero (hseq : s.seq = .run (.mulLoop use)) (hk : s.w.k = 0#64) :
    unitStep s = .next (mulmodReturn use s) := by
  rw [unitStep, hseq]
  exact if_pos hk

/-- The unit's first step on an accepted MULMOD is the load, on the snapshot (R110, R111). -/
theorem unitStep_accept_mulmod (hm : s.modulus ≠ 0#64) :
    unitStep (accept (commandWord .mulmod) s) =
      .next (microStep (mulmodLoad s.opa s.opb s.modulus (snapshot (commandWord .mulmod) s)) (.mulLoop .command)
        (accept (commandWord .mulmod) s)) := by
  rw [unitStep, accept_seq]
  simp only [startOperation, commandOfOpcode_accept]
  exact if_neg hm

end

/-- `n` steps of the unit in the mulmod loop are `n` passes, as long as a bit of K is left before each. -/
theorem performAll_mulmodPasses {use : MulUse} {m : Word} {w : Working} {n : Nat} (hm : m ≠ 0#64) (hw : w.m = m)
    (hk : ∀ i < n, ((mulmodPass m)^[i] w).k ≠ 0#64) (s : State) :
    performAll (.replicate n .unitStep) (microStep w (.mulLoop use) s) =
      .next (microStep ((mulmodPass m)^[n] w) (.mulLoop use) s) := by
  induction n generalizing w with
  | zero => rfl
  | succ n ih =>
    have hpass : unitStep (microStep w (.mulLoop use) s) = .next (microStep (mulmodPass m w) (.mulLoop use) s) := by
      subst hw
      exact unitStep_mulLoop_of_k_ne_zero rfl hm (hk 0 n.succ_pos)
    rw [performAll_replicate_unitStep_succ hpass, Function.iterate_succ_apply]
    exact ih ((mulmodPass_m m w).trans hw) fun i hi => hk (i + 1) (Nat.succ_lt_succ hi)

/-- The working registers at the exit of the mulmod loop on operands `a` and `b`. -/
def mulmodExit (a b m : Word) (w : Working) : Working :=
  (mulmodPass m)^[bitlen (min a.toNat b.toNat)] (mulmodLoad a b m w)

section
variable (a b : Word) {m : Word} (hm : m ≠ 0#64) (w : Working)
include hm

theorem mulmodExit_after :
    MulmodAfter a.toNat b.toNat m.toNat (bitlen (min a.toNat b.toNat)) (mulmodExit a b m w) :=
  mulmodAfter_iterate_mulmodPass a b hm w le_rfl

theorem mulmodExit_k : (mulmodExit a b m w).k = 0#64 := (mulmodExit_after a b hm w).k_eq_zero_iff.2 le_rfl

/-- The result law: the loop exits with the product reduced in ACC (R112). -/
theorem toNat_mulmodExit_acc : (mulmodExit a b m w).acc.toNat = a.toNat * b.toNat % m.toNat :=
  (mulmodExit_after a b hm w).product (mulmodExit_k a b hm w)

end

/-- The unit runs the mulmod micro-program from its load to its return in one step per bit of the smaller operand, and
one for the return (R111, R113). -/
theorem performAll_mulmod {use : MulUse} (a b : Word) {w : Working} (hm : w.m ≠ 0#64) (s : State) :
    performAll (.replicate (bitlen (min a.toNat b.toNat) + 1) .unitStep)
        (microStep (mulmodLoad a b w.m w) (.mulLoop use) s) =
      .next (mulmodReturn use (microStep (mulmodExit a b w.m w) (.mulLoop use) s)) := by
  have hk : ∀ i < bitlen (min a.toNat b.toNat), ((mulmodPass w.m)^[i] (mulmodLoad a b w.m w)).k ≠ 0#64 := fun i hi h0 =>
    Nat.not_le_of_lt hi ((mulmodAfter_iterate_mulmodPass a b hm w hi.le).k_eq_zero_iff.1 h0)
  have hloop := performAll_mulmodPasses (use := use) hm (mulmodLoad_m a b w.m w) hk s
  exact performAll_replicate_unitStep_succ' hloop (unitStep_mulLoop_of_k_eq_zero rfl (mulmodExit_k a b hm w))

/-- Settles O52: acceptance, the load, the passes and the return, and the completion. -/
theorem mulmodCompletesWithTheProduct : Obligations.MulmodCompletesWithTheProduct := by
  intro s herr hbusy hm
  have haccept : exec .mulmod s = .next (accept (commandWord .mulmod) s) :=
    (exec_instrOfCommand .mulmod s).trans
      (congrArg _ (submitCommand_commandWord_eq_accept herr hbusy fun _ => hm))
  have hrun := run_complete_of_ready <| (performAll_replicate_unitStep_succ (unitStep_accept_mulmod hm) _).trans
    (performAll_mulmod (use := .command) s.opa s.opb (w := snapshot (commandWord .mulmod) s) hm _)
  have hres := toNat_mulmodExit_acc s.opa s.opb hm (snapshot (commandWord .mulmod) s)
  have hlt : s.opa.toNat * s.opb.toNat % s.modulus.toNat < s.modulus.toNat :=
    Nat.mod_lt _ (BitVec.toNat_pos_of_ne_zero hm)
  exact ⟨_, _, _, haccept, hrun, hres, hres.trans_lt hlt, completeFlags_acceptFlags hbusy, rfl, rfl, rfl, rfl, rfl, rfl,
    rfl, rfl⟩

end Sys2Proof.Machine
end

section
/-! SUPPORT. The powmod micro-program (42_powmod.md R121): what its multiply, shift and square do to the invariant of its
loop (R123), and the unit's run from the load to the return (R122). -/
namespace Sys2Proof.Machine

/-! ### The powers along the exponent -/

theorem powmodValue_modEq (base e m : Nat) : powmodValue base e m ≡ base ^ e [MOD m] := by
  unfold powmodValue
  split
  case isTrue he => rw [he, pow_zero]
  case isFalse => exact Nat.mod_modEq _ _

theorem powmodValue_of_ne_zero (base m : Nat) {e : Nat} (he : e ≠ 0) : powmodValue base e m = base ^ e % m := if_neg he

theorem powmodSquared_modEq (base m j : Nat) : powmodSquared base m j ≡ base ^ 2 ^ j [MOD m] := by
  unfold powmodSquared
  split
  case isTrue hj => rw [hj, pow_zero, pow_one]
  case isFalse => exact Nat.mod_modEq _ _

/-- The square of the running square is the next one (R123). -/
theorem powmodSquared_mul_self_mod (base m j : Nat) :
    powmodSquared base m j * powmodSquared base m j % m = powmodSquared base m (j + 1) := by
  have hmul := (powmodSquared_modEq base m j).mul (powmodSquared_modEq base m j)
  rw [← pow_add, ← two_mul, ← pow_succ'] at hmul
  exact hmul

/-- A bit of the exponent that is 1 multiplies the running power by the running square (R123). -/
theorem powmodValue_mul_powmodSquared_mod (base m : Nat) {e j : Nat} (hbit : e.testBit j = true) :
    powmodValue base (e % 2 ^ j) m * powmodSquared base m j % m = powmodValue base (e % 2 ^ (j + 1)) m := by
  have hlow : e % 2 ^ (j + 1) = e % 2 ^ j + 2 ^ j := by
    rw [Nat.mod_pow_succ, ← Nat.toNat_testBit, hbit, Bool.toNat_true, mul_one]
  have hmul := (powmodValue_modEq base (e % 2 ^ j) m).mul (powmodSquared_modEq base m j)
  rw [← pow_add] at hmul
  rw [hlow, powmodValue_of_ne_zero base m (Nat.add_pos_right _ (Nat.two_pow_pos j)).ne']
  exact hmul

/-- A bit of the exponent that is 0 leaves the scanned part as it was. -/
theorem mod_two_pow_succ_of_testBit_eq_false {e j : Nat} (hbit : e.testBit j = false) :
    e % 2 ^ (j + 1) = e % 2 ^ j := by
  rw [Nat.mod_pow_succ, ← Nat.toNat_testBit, hbit, Bool.toNat_false, mul_zero, add_zero]

/-! ### The loop invariant, position by position -/

/-- The working registers after the load: PR an unreduced 1, PB the base, PE the exponent (R121). -/
def powmodLoad (w : Working) : Working := { w with pr := 1#64, pb := w.a, pe := w.b }

theorem powmodStart_eq (s : State) : powmodStart s = .next (microStep (powmodLoad s.w) .powLoop s) := rfl

/-- The load starts the invariant, with no pass done (R121, R123). -/
theorem powmodHead_powmodLoad (w : Working) (m : Nat) : PowmodHead w.a.toNat w.b.toNat m (powmodLoad w) := by
  refine ⟨0, rfl, fun _ => rfl, ?_⟩
  rw [pow_zero, Nat.mod_one]
  rfl

section
variable {base e m : Nat} {w v : Working}

/-- With no bit of the exponent left PR is the result (R122). -/
theorem PowmodHead.result (h : PowmodHead base e m w) (hpe : w.pe = 0#64) : w.pr.toNat = powmodValue base e m := by
  obtain ⟨j, hj, -, hpr⟩ := h
  have hzero : e >>> j = 0 := by rw [← hj, hpe, BitVec.toNat_zero]
  have hlt : e < 2 ^ j := bitlen_le_iff.1 (shiftRight_eq_zero_iff_bitlen_le.1 hzero)
  rw [hpr, Nat.mod_eq_of_lt hlt]

/-- The lowest bit of PE is the bit of the exponent that the pass scans (R123). -/
theorem getLsbD_zero_of_toNat_eq_shiftRight {x : Word} {j : Nat} (hx : x.toNat = e >>> j) :
    x.getLsbD 0 = e.testBit j := by
  rw [BitVec.getLsbD, hx, Nat.testBit_shiftRight, add_zero]

/-- The multiply, where the lowest bit of PE is 1: PR times PB, reduced, into PR (R121, R123). -/
theorem PowmodHead.multiplied (h : PowmodHead base e m w) (hbit : w.pe.getLsbD 0 = true) (hpe : v.pe = w.pe)
    (hpb : v.pb = w.pb) (hpr : v.pr.toNat = w.pr.toNat * w.pb.toNat % m) : PowmodMultiplied base e m v := by
  obtain ⟨j, hj, hsq, hpow⟩ := h
  have hne : w.pe.toNat ≠ 0 := fun h0 => by simp [BitVec.getLsbD, h0] at hbit
  have hscan : e.testBit j = true := (getLsbD_zero_of_toNat_eq_shiftRight hj).symm.trans hbit
  refine ⟨j, hpe ▸ hj, hpe ▸ hne, hpb ▸ hsq hne, ?_⟩
  rw [hpr, hpow, hsq hne, powmodValue_mul_powmodSquared_mod base m hscan]

/-- No multiply, where the lowest bit of PE is 0 (R121, R123). -/
theorem PowmodHead.multiplied_of_bit_eq_false (h : PowmodHead base e m w) (hbit : w.pe.getLsbD 0 = false)
    (hpe : w.pe ≠ 0#64) : PowmodMultiplied base e m w := by
  obtain ⟨j, hj, hsq, hpow⟩ := h
  have hne : w.pe.toNat ≠ 0 := fun h0 => hpe (BitVec.eq_of_toNat_eq h0)
  have hscan : e.testBit j = false := (getLsbD_zero_of_toNat_eq_shiftRight hj).symm.trans hbit
  exact ⟨j, hj, hne, hsq hne, (mod_two_pow_succ_of_testBit_eq_false hscan).symm ▸ hpow⟩

theorem toNat_powmodShift_pe (w : Working) : (powmodShift w).pe.toNat = w.pe.toNat >>> 1 :=
  BitVec.toNat_ushiftRight _ _

/-- The shift that uses the exponent up ends the pass (R121, R123). -/
theorem PowmodMultiplied.head (h : PowmodMultiplied base e m w) (hpe : (powmodShift w).pe = 0#64) :
    PowmodHead base e m (powmodShift w) := by
  obtain ⟨j, hj, -, -, hpow⟩ := h
  refine ⟨j + 1, ?_, fun hne => absurd (congrArg BitVec.toNat hpe) hne, hpow⟩
  rw [toNat_powmodShift_pe, hj, Nat.shiftRight_add]

/-- The shift that leaves a bit of the exponent goes on to the square (R121, R123). -/
theorem PowmodMultiplied.squaring (h : PowmodMultiplied base e m w) (hpe : (powmodShift w).pe ≠ 0#64) :
    PowmodSquaring base e m (powmodShift w) := by
  obtain ⟨j, hj, -, hsq, hpow⟩ := h
  refine ⟨j, ?_, fun h0 => hpe (BitVec.eq_of_toNat_eq h0), hsq, hpow⟩
  rw [toNat_powmodShift_pe, hj, Nat.shiftRight_add]

/-- The square: PB times PB, reduced, into PB, and the pass ends (R121, R123). -/
theorem PowmodSquaring.head (h : PowmodSquaring base e m w) (hpe : v.pe = w.pe) (hpr : v.pr = w.pr)
    (hpb : v.pb.toNat = w.pb.toNat * w.pb.toNat % m) : PowmodHead base e m v := by
  obtain ⟨j, hj, -, hsq, hpow⟩ := h
  refine ⟨j + 1, hpe ▸ hj, fun _ => ?_, hpr ▸ hpow⟩
  rw [hpb, hsq, powmodSquared_mul_self_mod]

end

/-! ### The unit alone, within a number of steps -/

/-- The unit, with nothing else happening, gets from `s` to `t` within `n` steps. -/
def UnitReaches (n : Nat) (s t : State) : Prop := ∃ k ≤ n, performAll (.replicate k .unitStep) s = .next t

section
variable {n k : Nat} {s t u : State}

theorem UnitReaches.mono (h : UnitReaches n s t) (hnk : n ≤ k) : UnitReaches k s t :=
  let ⟨i, hi, hrun⟩ := h
  ⟨i, hi.trans hnk, hrun⟩

theorem unitReaches_of_unitStep (h : unitStep s = .next t) : UnitReaches 1 s t :=
  ⟨1, le_rfl, performAll_replicate_unitStep_succ h 0⟩

theorem UnitReaches.trans (h : UnitReaches n s t) (h' : UnitReaches k t u) : UnitReaches (n + k) s u := by
  obtain ⟨i, hi, hrun⟩ := h
  obtain ⟨j, hj, hrun'⟩ := h'
  refine ⟨i + j, Nat.add_le_add hi hj, ?_⟩
  rw [List.replicate_add, performAll_append hrun, hrun']

end

/-- A whole mulmod, from its load to its return, is at most 64 passes and the return (R111, R113). -/
theorem unitReaches_mulmodReturn (use : MulUse) (a b : Word) {w : Working} (hm : w.m ≠ 0#64) (s : State) :
    UnitReaches 65 (microStep (mulmodLoad a b w.m w) (.mulLoop use) s)
      (mulmodReturn use (microStep (mulmodExit a b w.m w) (.mulLoop use) s)) :=
  ⟨_, Nat.succ_le_succ (bitlen_min_toNat_le a b), performAll_mulmod a b hm s⟩

/-- A whole mulmod leaves alone what its load and a pass leave alone. -/
theorem mulmodExit_frame {α : Type} {f : Working → α} {a b m : Word} {w : Working}
    (hload : f (mulmodLoad a b m w) = f w) (hpass : ∀ v, f (mulmodPass m v) = f v) : f (mulmodExit a b m w) = f w :=
  (congrFun (Function.iterate_invariant (funext hpass) _) _).trans hload

@[simp] theorem mulmodExit_m (a b m : Word) (w : Working) : (mulmodExit a b m w).m = w.m :=
  mulmodExit_frame rfl (mulmodPass_m m)
@[simp] theorem mulmodExit_pr (a b m : Word) (w : Working) : (mulmodExit a b m w).pr = w.pr :=
  mulmodExit_frame rfl (mulmodPass_pr m)
@[simp] theorem mulmodExit_pb (a b m : Word) (w : Working) : (mulmodExit a b m w).pb = w.pb :=
  mulmodExit_frame rfl (mulmodPass_pb m)
@[simp] theorem mulmodExit_pe (a b m : Word) (w : Working) : (mulmodExit a b m w).pe = w.pe :=
  mulmodExit_frame rfl (mulmodPass_pe m)

/-! ### The loop of the powmod micro-program -/

section
variable {s : State} {w : Working}

theorem unitStep_powLoop_of_pe_eq_zero (hpe : w.pe = 0#64) :
    unitStep (microStep w .powLoop s) = .next (microStep w (.ready w.pr) s) :=
  if_pos hpe

theorem unitStep_powLoop_of_bit_eq_true (hm : w.m ≠ 0#64) (hpe : w.pe ≠ 0#64) (hbit : w.pe.getLsbD 0 = true) :
    unitStep (microStep w .powLoop s) = .next (microStep (mulmodLoad w.pr w.pb w.m w) (.mulLoop .powMultiply) s) :=
  ((if_neg hpe).trans (if_pos hbit)).trans (if_neg hm)

theorem unitStep_powLoop_of_bit_eq_false (hpe : w.pe ≠ 0#64) (hbit : ¬ w.pe.getLsbD 0 = true) :
    unitStep (microStep w .powLoop s) = .next (microStep w .powShift s) :=
  (if_neg hpe).trans (if_neg hbit)

theorem unitStep_powShift_of_pe_eq_zero (hpe : (powmodShift w).pe = 0#64) :
    unitStep (microStep w .powShift s) = .next (microStep (powmodShift w) .powLoop s) :=
  powmodShiftStep_of_pe_eq_zero hpe

theorem unitStep_powShift_of_pe_ne_zero (hm : w.m ≠ 0#64) (hpe : (powmodShift w).pe ≠ 0#64) :
    unitStep (microStep w .powShift s) =
      .next (microStep (mulmodLoad w.pb w.pb w.m (powmodShift w)) (.mulLoop .powSquare) s) :=
  (powmodShiftStep_of_pe_ne_zero hpe).trans (if_neg hm)

end

section
variable {base e : Nat} {w : Working}

/-- The first half of a pass: the multiply, where the scanned bit asks for it (R121). -/
theorem PowmodHead.unitReaches_powShift (h : PowmodHead base e w.m.toNat w) (hm : w.m ≠ 0#64) (hpe : w.pe ≠ 0#64)
    (s : State) :
    ∃ v, v.m = w.m ∧ v.pe = w.pe ∧ PowmodMultiplied base e w.m.toNat v ∧
      UnitReaches 66 (microStep w .powLoop s) (microStep v .powShift s) := by
  by_cases hbit : w.pe.getLsbD 0 = true
  · refine ⟨{ mulmodExit w.pr w.pb w.m w with pr := (mulmodExit w.pr w.pb w.m w).acc }, mulmodExit_m .., mulmodExit_pe ..,
      h.multiplied hbit (mulmodExit_pe ..) (mulmodExit_pb ..) (toNat_mulmodExit_acc w.pr w.pb hm w), ?_⟩
    exact (unitReaches_of_unitStep (unitStep_powLoop_of_bit_eq_true hm hpe hbit)).trans
      (unitReaches_mulmodReturn .powMultiply w.pr w.pb hm s)
  · refine ⟨w, rfl, rfl, h.multiplied_of_bit_eq_false (Bool.eq_false_of_not_eq_true hbit) hpe, ?_⟩
    exact (unitReaches_of_unitStep (unitStep_powLoop_of_bit_eq_false hpe hbit)).mono (by decide)

/-- The second half of a pass that leaves a bit of the exponent: the shift and the square (R121). -/
theorem PowmodMultiplied.unitReaches_powLoop (h : PowmodMultiplied base e w.m.toNat w) (hm : w.m ≠ 0#64)
    (hpe : (powmodShift w).pe ≠ 0#64) (s : State) :
    ∃ v, v.m = w.m ∧ v.pe = (powmodShift w).pe ∧ PowmodHead base e w.m.toNat v ∧
      UnitReaches 66 (microStep w .powShift s) (microStep v .powLoop s) := by
  refine ⟨{ mulmodExit w.pb w.pb w.m (powmodShift w) with pb := (mulmodExit w.pb w.pb w.m (powmodShift w)).acc },
    mulmodExit_m .., mulmodExit_pe .., (h.squaring hpe).head (mulmodExit_pe ..) (mulmodExit_pr ..)
      (toNat_mulmodExit_acc w.pb w.pb hm (powmodShift w)), ?_⟩
  exact (unitReaches_of_unitStep (unitStep_powShift_of_pe_ne_zero hm hpe)).trans
    (unitReaches_mulmodReturn .powSquare w.pb w.pb (w := powmodShift w) hm s)

/-- With `n` bits of the exponent to come the loop returns the result after `n` passes, of 132 steps each but for the
last, which has no square and takes 67 (R122, R123). -/
theorem PowmodHead.unitReaches_ready {n : Nat} (h : PowmodHead base e w.m.toNat w) (hm : w.m ≠ 0#64)
    (hn : w.pe.toNat < 2 ^ n) (s : State) :
    ∃ v, v.pr.toNat = powmodValue base e w.m.toNat ∧
      UnitReaches (132 * n - 65 + 1) (microStep w .powLoop s) (microStep v (.ready v.pr) s) := by
  induction n generalizing w with
  | zero =>
    have hpe : w.pe = 0#64 := BitVec.eq_of_toNat_eq (Nat.lt_one_iff.1 hn)
    exact ⟨w, h.result hpe, unitReaches_of_unitStep (unitStep_powLoop_of_pe_eq_zero hpe)⟩
  | succ n ih =>
    by_cases hpe : w.pe = 0#64
    · exact ⟨w, h.result hpe, (unitReaches_of_unitStep (unitStep_powLoop_of_pe_eq_zero hpe)).mono (by omega)⟩
    · obtain ⟨v, hvm, hvpe, hmul, hfirst⟩ := h.unitReaches_powShift hm hpe s
      rw [← hvm] at hm hmul ⊢
      have hshift : (powmodShift v).pe.toNat < 2 ^ n := by
        rw [toNat_powmodShift_pe, hvpe, Nat.shiftRight_eq_div_pow]
        omega
      by_cases hend : (powmodShift v).pe = 0#64
      · have hexit := (unitReaches_of_unitStep (unitStep_powShift_of_pe_eq_zero hend)).trans
          (unitReaches_of_unitStep (unitStep_powLoop_of_pe_eq_zero (s := s) hend))
        exact ⟨powmodShift v, (hmul.head hend).result hend, (hfirst.trans hexit).mono (by omega)⟩
      · obtain ⟨x, hxm, hxpe, hhead, hsecond⟩ := hmul.unitReaches_powLoop hm hend s
        rw [← hxm] at hm hhead ⊢
        obtain ⟨y, hy, hrest⟩ := ih hhead hm (hxpe ▸ hshift)
        have hn0 : n ≠ 0 := by
          rintro rfl
          exact hend (BitVec.eq_of_toNat_eq (Nat.lt_one_iff.1 hshift))
        exact ⟨y, hy, ((hfirst.trans hsecond).trans hrest).mono (by omega)⟩

end

/-! ### POWMOD from its acceptance -/

/-- In the idle, fault-free state a command that has the modulus it needs is accepted (R152, R153). -/
theorem exec_instrOfCommand_eq_accept {c : Command} {s : State} (herr : s.status.err = false)
    (hbusy : s.status.busy = false) (hm : needsModulus c = true → s.modulus ≠ 0#64) :
    exec (instrOfCommand c) s = .next (accept (commandWord c) s) :=
  (exec_instrOfCommand c s).trans (congrArg _ (submitCommand_commandWord_eq_accept herr hbusy hm))

/-- The unit's first step on an accepted POWMOD is the load, on the snapshot (R121). -/
theorem unitStep_accept_powmod (s : State) :
    unitStep (accept (commandWord .powmod) s) =
      .next (microStep (powmodLoad (snapshot (commandWord .powmod) s)) .powLoop (accept (commandWord .powmod) s)) := by
  rw [unitStep, accept_seq]
  simp only [startOperation, commandOfOpcode_accept]
  exact powmodStart_eq _

/-- An accepted POWMOD has its result ready after the load and at most 64 passes (R122, R123). -/
theorem unitReaches_ready_of_accept_powmod {s : State} (hm : s.modulus ≠ 0#64) :
    ∃ v, v.pr.toNat = powmodValue s.opa.toNat s.opb.toNat s.modulus.toNat ∧
      UnitReaches 8385 (accept (commandWord .powmod) s) (microStep v (.ready v.pr) (accept (commandWord .powmod) s)) := by
  obtain ⟨v, hv, hrun⟩ := (powmodHead_powmodLoad (snapshot (commandWord .powmod) s) s.modulus.toNat).unitReaches_ready
    (w := powmodLoad (snapshot (commandWord .powmod) s)) hm s.opb.isLt (accept (commandWord .powmod) s)
  exact ⟨v, hv, (unitReaches_of_unitStep (unitStep_accept_powmod s)).trans hrun⟩

/-- Settles O53: acceptance, the load and the passes of the powmod loop, and the completion. -/
theorem powmodCompletesWithThePower : Obligations.PowmodCompletesWithThePower := by
  intro s herr hbusy hm
  have haccept := exec_instrOfCommand_eq_accept (c := .powmod) herr hbusy fun _ => hm
  obtain ⟨v, hv, n, -, hrun⟩ := unitReaches_ready_of_accept_powmod hm
  exact ⟨_, _, _, haccept, run_complete_of_ready hrun, hv, completeFlags_acceptFlags hbusy, rfl, rfl, rfl, rfl, rfl, rfl,
    rfl, rfl⟩

end Sys2Proof.Machine
end

section
/-! SUPPORT. The loop of the isqrt micro-program (43_isqrt.md R131): what holds of the working registers with a given number
of passes still to come (R133), for the ISQRT command and for ISPRIME's trial bound alike. -/
namespace Sys2Proof.Machine

/-! ### The decided part of the root -/

theorem rootPart_eq (x n : Nat) : rootPart x n = Nat.sqrt x / 2 ^ n * 2 ^ n := by
  rw [rootPart, Nat.shiftRight_eq_div_pow, Nat.shiftLeft_eq]

theorem rootPart_zero (x : Nat) : rootPart x 0 = Nat.sqrt x := rfl

theorem rootPart_mul_self_le (x n : Nat) : rootPart x n * rootPart x n ≤ x := by
  rw [← Nat.le_sqrt, rootPart_eq]
  exact Nat.div_mul_le_self _ _

/-- The root of a word fits in 32 bits (R132). -/
theorem sqrt_lt_two_pow_32 {x : Nat} (hx : x < 2 ^ 64) : Nat.sqrt x < 2 ^ 32 := Nat.sqrt_lt'.2 hx

/-- Bit `n` of the root joins the decided part exactly where the square with it does not exceed `x` (R133). -/
theorem rootPart_eq_ite (x n : Nat) :
    rootPart x n =
      if (rootPart x (n + 1) + 2 ^ n) * (rootPart x (n + 1) + 2 ^ n) ≤ x then rootPart x (n + 1) + 2 ^ n
      else rootPart x (n + 1) := by
  have hd : Nat.sqrt x / 2 ^ (n + 1) = Nat.sqrt x / 2 ^ n / 2 := by rw [pow_succ, Nat.div_div_eq_div_mul]
  have hsplit : rootPart x (n + 1) = 2 * (Nat.sqrt x / 2 ^ n / 2) * 2 ^ n := by rw [rootPart_eq, hd]; ring
  have htest : rootPart x (n + 1) + 2 ^ n ≤ Nat.sqrt x ↔ 2 * (Nat.sqrt x / 2 ^ n / 2) + 1 ≤ Nat.sqrt x / 2 ^ n := by
    rw [hsplit, ← Nat.succ_mul, Nat.le_div_iff_mul_le (Nat.two_pow_pos n)]
  simp only [← Nat.le_sqrt, htest]
  rw [rootPart_eq, hsplit]
  split
  · rw [← Nat.succ_mul]; congr 1; omega
  · congr 1; omega

/-- The decided part leaves room for every bit below it: the root has 32 bits (R133). -/
theorem rootPart_add_le {x n : Nat} (hx : x < 2 ^ 64) (hn : n ≤ 32) : rootPart x n + 2 ^ n ≤ 2 ^ 32 := by
  have hdvd : 2 ^ n * 2 ^ (32 - n) = 2 ^ 32 := by rw [← pow_add, Nat.add_sub_cancel' hn]
  have hlt : Nat.sqrt x / 2 ^ n < 2 ^ (32 - n) := Nat.div_lt_of_lt_mul (hdvd ▸ sqrt_lt_two_pow_32 hx)
  calc rootPart x n + 2 ^ n = (Nat.sqrt x / 2 ^ n + 1) * 2 ^ n := by rw [rootPart_eq, Nat.succ_mul]
    _ ≤ 2 ^ (32 - n) * 2 ^ n := Nat.mul_le_mul_right _ hlt
    _ = 2 ^ 32 := by rw [mul_comm, hdvd]

/-- A power of four, as SB holds it, is the square of a bit's weight. -/
theorem four_pow_eq (n : Nat) : 4 ^ n = 2 ^ n * 2 ^ n := mul_pow 2 2 n

/-- SQ + SB is what the next bit adds to the square (R133). -/
theorem add_two_pow_mul_self (p n : Nat) :
    (p + 2 ^ n) * (p + 2 ^ n) = p * p + (p * 2 ^ (n + 1) + 4 ^ n) := by
  rw [four_pow_eq]; ring

/-- SQ + SB fits in 64 bits (R133). -/
theorem rootPart_mul_add_lt {x n : Nat} (hx : x < 2 ^ 64) (hn : n < 32) :
    rootPart x (n + 1) * 2 ^ (n + 1) + 4 ^ n < 2 ^ 64 := by
  have hp : rootPart x (n + 1) + 2 ^ (n + 1) ≤ 2 ^ 32 := rootPart_add_le hx hn
  have h2 : 2 ^ n ≤ 2 ^ 31 := Nat.pow_le_pow_right (by decide) (Nat.le_of_lt_succ hn)
  have hsum : 2 * rootPart x (n + 1) + 2 ^ n < 2 ^ 33 := by
    rw [pow_succ] at hp
    have hpos := Nat.two_pow_pos n
    omega
  calc rootPart x (n + 1) * 2 ^ (n + 1) + 4 ^ n = 2 ^ n * (2 * rootPart x (n + 1) + 2 ^ n) := by
        rw [four_pow_eq]; ring
    _ ≤ 2 ^ 31 * (2 * rootPart x (n + 1) + 2 ^ n) := Nat.mul_le_mul_right _ h2
    _ < 2 ^ 31 * 2 ^ 33 := Nat.mul_lt_mul_of_pos_left hsum (by decide)

/-! ### The invariant with a given number of passes still to come -/

/-- R133 with `n` passes to come: the body of `IsqrtHead` with that number named. -/
structure IsqrtBefore (x n : Nat) (w : Working) : Prop where
  sb : w.sb.toNat = if n = 0 then 0 else 4 ^ (n - 1)
  sq : w.sq.toNat = rootPart x n * 2 ^ n
  sr : w.sr.toNat = x - rootPart x n * rootPart x n

theorem isqrtHead_iff {x : Nat} {w : Working} : IsqrtHead x w ↔ ∃ n ≤ 32, IsqrtBefore x n w :=
  exists_congr fun _ => and_congr_right fun _ => ⟨fun ⟨hsb, hsq, hsr⟩ => ⟨hsb, hsq, hsr⟩, fun h => ⟨h.sb, h.sq, h.sr⟩⟩

section
variable {x n : Nat} {w : Working}

/-- No pass to come: SB is 0. -/
theorem IsqrtBefore.sb_eq_zero (h : IsqrtBefore x 0 w) : w.sb = 0#64 := BitVec.eq_of_toNat_eq h.sb

/-- No pass to come: SQ is the root (R132). -/
theorem IsqrtBefore.toNat_sq_eq_sqrt (h : IsqrtBefore x 0 w) : w.sq.toNat = Nat.sqrt x := by
  rw [h.sq, rootPart_zero, pow_zero, mul_one]

theorem IsqrtBefore.toNat_sb (h : IsqrtBefore x (n + 1) w) : w.sb.toNat = 4 ^ n := h.sb

/-- A pass to come: SB is not 0. -/
theorem IsqrtBefore.sb_ne_zero (h : IsqrtBefore x (n + 1) w) : w.sb ≠ 0#64 := fun h0 =>
  (Nat.pow_pos (by decide)).ne' (h.toNat_sb.symm.trans (congrArg BitVec.toNat h0))

theorem IsqrtBefore.sq_even (h : IsqrtBefore x (n + 1) w) : w.sq.toNat % 2 = 0 := by
  rw [h.sq, pow_succ, ← mul_assoc, Nat.mul_mod_left]

/-- The sum of a pass does not overflow (R133). -/
theorem IsqrtBefore.sq_add_sb_lt (h : IsqrtBefore x (n + 1) w) (hx : x < 2 ^ 64) (hn : n < 32) :
    w.sq.toNat + w.sb.toNat < 2 ^ 64 := by
  rw [h.sq, h.toNat_sb]
  exact rootPart_mul_add_lt hx hn

/-- The test of a pass asks for the next bit of the root (R133). -/
theorem IsqrtBefore.test_iff (h : IsqrtBefore x (n + 1) w) :
    w.sq.toNat + w.sb.toNat ≤ w.sr.toNat ↔
      (rootPart x (n + 1) + 2 ^ n) * (rootPart x (n + 1) + 2 ^ n) ≤ x := by
  have hp := rootPart_mul_self_le x (n + 1)
  rw [h.sq, h.toNat_sb, h.sr, add_two_pow_mul_self]
  omega

/-! ### The load and a pass -/

/-- The load, 32 passes before the end (R131). -/
theorem isqrtBefore_isqrtLoad (x : Word) (w : Working) : IsqrtBefore x.toNat 32 (isqrtLoad x w) := by
  have h0 : rootPart x.toNat 32 = 0 := by
    rw [rootPart_eq, Nat.div_eq_of_lt (sqrt_lt_two_pow_32 x.isLt), zero_mul]
  exact { sb := rfl, sq := by rw [h0, zero_mul]; rfl, sr := by rw [h0]; rfl }

/-- SQ halved (R131): no bit is lost. -/
theorem IsqrtBefore.toNat_sq_shiftRight (h : IsqrtBefore x (n + 1) w) :
    (w.sq >>> 1).toNat = rootPart x (n + 1) * 2 ^ n := by
  rw [BitVec.toNat_ushiftRight, h.sq, Nat.shiftRight_eq_div_pow, pow_one, pow_succ, ← mul_assoc]
  exact Nat.mul_div_cancel _ (by decide)

/-- A pass keeps the invariant, one pass nearer to the end (R133). -/
theorem IsqrtBefore.pass (h : IsqrtBefore x (n + 1) w) (hx : x < 2 ^ 64) (hn : n < 32) :
    IsqrtBefore x n (isqrtPass w) where
  sb := by
    rw [isqrtPass_sb, BitVec.toNat_ushiftRight, h.toNat_sb, Nat.shiftRight_eq_div_pow]
    cases n with
    | zero => rfl
    | succ n => exact Nat.mul_div_cancel _ (by decide)
  sq := by
    have hle : (w.sq >>> 1).toNat ≤ w.sq.toNat := Nat.shiftRight_le _ 1
    have hsum := (Nat.add_le_add_right hle w.sb.toNat).trans_lt (h.sq_add_sb_lt hx hn)
    rw [isqrtPass_sq, rootPart_eq_ite x n]
    simp only [h.test_iff]
    split
    · rw [BitVec.toNat_add_of_lt hsum, h.toNat_sq_shiftRight, h.toNat_sb, add_mul, four_pow_eq]
    · exact h.toNat_sq_shiftRight
  sr := by
    have hsum := h.sq_add_sb_lt hx hn
    rw [isqrtPass_sr, rootPart_eq_ite x n]
    by_cases htest : w.sq.toNat + w.sb.toNat ≤ w.sr.toNat
    · have hadd := BitVec.toNat_add_of_lt hsum
      rw [if_pos htest, if_pos (h.test_iff.1 htest), BitVec.toNat_sub_of_le (BitVec.le_def.2 (hadd ▸ htest)), hadd,
        h.sr, h.sq, h.toNat_sb, add_two_pow_mul_self, Nat.sub_sub]
    · rw [if_neg htest, if_neg (mt h.test_iff.2 htest), h.sr]

end

/-- The invariant after the load and all but `n` of the passes (R133). -/
theorem isqrtBefore_iterate_isqrtPass (x : Word) (w : Working) {n : Nat} (hn : n ≤ 32) :
    IsqrtBefore x.toNat n (isqrtPass^[32 - n] (isqrtLoad x w)) := by
  induction hn using Nat.decreasingInduction with
  | self => exact isqrtBefore_isqrtLoad x w
  | of_succ n hn ih =>
    rw [show 32 - n = 32 - (n + 1) + 1 by omega, Function.iterate_succ_apply']
    exact ih.pass x.isLt hn

/-- Settles O51, from the invariant by induction over the passes, from the load down to the last. -/
theorem isqrtPassesKeepTheLoopInvariant : Obligations.IsqrtPassesKeepTheLoopInvariant := by
  intro x w n hn v p
  have h : IsqrtBefore x.toNat n v := isqrtBefore_iterate_isqrtPass x w hn
  refine ⟨h.sq, h.sr, fun hpos => ?_, ?_⟩
  · obtain ⟨n, rfl⟩ := Nat.exists_eq_add_one.2 hpos
    exact ⟨h.toNat_sb, h.sq_add_sb_lt x.isLt hn, h.sq_even, h.test_iff⟩
  · rintro rfl
    exact ⟨h.sb_eq_zero, h.toNat_sq_eq_sqrt, h.sr⟩

end Sys2Proof.Machine
end

section
/-! SUPPORT. The isqrt micro-program run to its return, the unit alone stepping (43_isqrt.md R131, R132). -/
namespace Sys2Proof.Machine

section
variable {use : SqrtUse} {w : Working} {s : State}

/-- The unit at the head of the isqrt loop, SB not 0: a pass (R131). -/
theorem unitStep_sqrtLoop_of_sb_ne_zero (hsb : w.sb ≠ 0#64) :
    unitStep (microStep w (.sqrtLoop use) s) = .next (microStep (isqrtPass w) (.sqrtLoop use) s) :=
  if_neg hsb

/-- The unit at the head of the isqrt loop, SB 0: the return (R131). -/
theorem unitStep_sqrtLoop_of_sb_eq_zero (hsb : w.sb = 0#64) :
    unitStep (microStep w (.sqrtLoop use) s) = .next (isqrtReturn use (microStep w (.sqrtLoop use) s)) :=
  if_pos hsb

/-- With `n` passes to come the unit returns the root after these passes and one step for the return; the snapshot stays
(R131, R132). -/
theorem IsqrtBefore.unitReaches_isqrtReturn {x n : Nat} (h : IsqrtBefore x n w) (hx : x < 2 ^ 64) (hn : n ≤ 32) :
    ∃ v, SameSnapshot w v ∧ v.sq.toNat = Nat.sqrt x ∧
      UnitReaches (n + 1) (microStep w (.sqrtLoop use) s) (isqrtReturn use (microStep v (.sqrtLoop use) s)) := by
  induction n generalizing w with
  | zero =>
    exact ⟨w, ⟨rfl, rfl, rfl, rfl⟩, h.toNat_sq_eq_sqrt,
      unitReaches_of_unitStep (unitStep_sqrtLoop_of_sb_eq_zero h.sb_eq_zero)⟩
  | succ n ih =>
    obtain ⟨v, hsame, hv, hrest⟩ := ih (h.pass hx hn) (Nat.le_of_succ_le hn)
    have hpass := unitReaches_of_unitStep (unitStep_sqrtLoop_of_sb_ne_zero (use := use) (s := s) h.sb_ne_zero)
    exact ⟨v, by simpa [SameSnapshot] using hsame, hv, (hpass.trans hrest).mono (by omega)⟩

end

/-! ### ISQRT from its acceptance -/

/-- The unit's first step on an accepted ISQRT is the load, on the snapshot (R130, R131). -/
theorem unitStep_accept_isqrt (s : State) :
    unitStep (accept (commandWord .isqrt) s) =
      .next (microStep (isqrtLoad s.opa (snapshot (commandWord .isqrt) s)) (.sqrtLoop .command)
        (accept (commandWord .isqrt) s)) := by
  rw [unitStep, accept_seq]
  simp only [startOperation, commandOfOpcode_accept]
  rfl

/-- An accepted ISQRT has its result ready after the load, 32 passes and the return (R131, R132). -/
theorem unitReaches_ready_of_accept_isqrt (s : State) :
    ∃ v, v.sq.toNat = Nat.sqrt s.opa.toNat ∧
      UnitReaches 34 (accept (commandWord .isqrt) s) (microStep v (.ready v.sq) (accept (commandWord .isqrt) s)) := by
  obtain ⟨v, -, hv, hrun⟩ :=
    (isqrtBefore_isqrtLoad s.opa (snapshot (commandWord .isqrt) s)).unitReaches_isqrtReturn (use := .command)
      (s := accept (commandWord .isqrt) s) s.opa.isLt le_rfl
  exact ⟨v, hv, (unitReaches_of_unitStep (unitStep_accept_isqrt s)).trans hrun⟩

/-- Settles O54: acceptance, the load, the passes and the return, and the completion. -/
theorem isqrtCompletesWithTheRoot : Obligations.IsqrtCompletesWithTheRoot := by
  intro s herr hbusy
  have haccept := exec_instrOfCommand_eq_accept (c := .isqrt) herr hbusy nofun
  obtain ⟨v, hv, n, -, hrun⟩ := unitReaches_ready_of_accept_isqrt s
  refine ⟨_, _, _, haccept, run_complete_of_ready hrun, ?_, ?_, ?_, completeFlags_acceptFlags hbusy, rfl, rfl, rfl, rfl,
    rfl, rfl, rfl, rfl⟩
  · exact hv ▸ Nat.sqrt_le _
  · exact hv ▸ Nat.lt_succ_sqrt _
  · exact hv ▸ Nat.le_of_lt_succ (sqrt_lt_two_pow_32 s.opa.isLt)

end Sys2Proof.Machine
end

section
/-! SUPPORT. The isprime micro-program (44_isprime.md R141): its first test, its trial loop with the invariant of R142, and
the unit's run from the acceptance to the result. -/
namespace Sys2Proof.Machine

/-! ### The result law -/

/-- The words of R142 are Mathlib's prime numbers. -/
theorem primeNumber_iff_prime {x : Nat} : PrimeNumber x ↔ x.Prime := Nat.prime_def_lt'.symm

/-- A divisor between 2 and the number refutes primality (R142). -/
theorem not_primeNumber_of_dvd {x d : Nat} (h2 : 2 ≤ d) (hlt : d < x) (hdvd : d ∣ x) : ¬ PrimeNumber x :=
  fun ⟨_, hno⟩ => hno d h2 hlt hdvd

theorem isResult_isprime_one {x b m : Nat} (h : PrimeNumber x) : IsResult .isprime x b m (1#64 : Word).toNat :=
  ⟨fun _ => rfl, fun hn => absurd h hn⟩

theorem isResult_isprime_zero {x b m : Nat} (h : ¬ PrimeNumber x) : IsResult .isprime x b m (0#64 : Word).toNat :=
  ⟨fun hp => absurd hp h, fun _ => rfl⟩

/-! ### The first step -/

/-- The first step answers 0 for 0, 1 and every even number but 2, and 1 for 2; it enters the root for the others (R141). -/
theorem isprimeStart_cases (b m : Nat) (s : State) :
    (∃ r : Word, IsResult .isprime s.w.a.toNat b m r.toNat ∧ isprimeStart s = .next (microStep s.w (.ready r) s)) ∨
    (3 ≤ s.w.a.toNat ∧ s.w.a.toNat % 2 = 1 ∧
      isprimeStart s = .next (microStep (isqrtLoad s.w.a s.w) (.sqrtLoop .primeBound) s)) := by
  have hbit : s.w.a.getLsbD 0 = true ↔ s.w.a.toNat % 2 = 1 := by simp [BitVec.getLsbD]
  by_cases hlt : s.w.a.toNat < 2
  · exact .inl ⟨0#64, isResult_isprime_zero fun hp => Nat.not_le_of_lt hlt hp.1, if_pos hlt⟩
  by_cases htwo : s.w.a = 2#64
  · have hprime : PrimeNumber s.w.a.toNat := primeNumber_iff_prime.2 (htwo ▸ Nat.prime_two)
    exact .inl ⟨1#64, isResult_isprime_one hprime, (if_neg hlt).trans (if_pos htwo)⟩
  have hne : s.w.a.toNat ≠ 2 := fun h => htwo (BitVec.eq_of_toNat_eq h)
  by_cases hodd : s.w.a.getLsbD 0 = true
  · exact .inr ⟨by omega, hbit.1 hodd, ((if_neg hlt).trans (if_neg htwo)).trans (if_pos hodd)⟩
  · have heven : 2 ∣ s.w.a.toNat := Nat.dvd_of_mod_eq_zero (Nat.mod_two_ne_one.1 (mt hbit.2 hodd))
    exact .inl ⟨0#64, isResult_isprime_zero (not_primeNumber_of_dvd le_rfl (by omega) heven),
      ((if_neg hlt).trans (if_neg htwo)).trans (if_neg hodd)⟩

/-! ### The invariant of the trial loop -/

/-- The working registers as the return of the root leaves them: the root in LIM, the first divisor in D (R141). -/
def isprimeBound (w : Working) : Working := { w with lim := w.sq.setWidth 32, d := 3#33 }

theorem isqrtReturn_primeBound (s : State) :
    isqrtReturn .primeBound s = microStep (isprimeBound s.w) .primeLoop s := rfl

theorem toNat_isprimeBound_lim {x : Nat} {w : Working} (hx : x < 2 ^ 64) (hsq : w.sq.toNat = Nat.sqrt x) :
    (isprimeBound w).lim.toNat = Nat.sqrt x := by
  change (w.sq.setWidth 32).toNat = _
  rw [BitVec.toNat_setWidth, hsq, Nat.mod_eq_of_lt (sqrt_lt_two_pow_32 hx)]

/-- The return of the root starts the invariant: below 3 stands 2 alone, and `x` is odd (R141). -/
theorem isprimeHead_isprimeBound {x : Nat} {w : Working} (hx : x < 2 ^ 64) (h3 : 3 ≤ x) (hodd : x % 2 = 1)
    (hsq : w.sq.toNat = Nat.sqrt x) : IsprimeHead x (isprimeBound w) := by
  have hlim := toNat_isprimeBound_lim hx hsq
  have hd : (isprimeBound w).d.toNat = 3 := rfl
  have hsqrt : 0 < Nat.sqrt x := Nat.sqrt_pos.2 (by omega)
  refine ⟨h3, hodd, hlim, hd.ge, by rw [hd], by omega, fun q h2 hq hdvd => ?_⟩
  have hq2 : q = 2 := by omega
  subst hq2
  omega

section
variable {x : Nat} {w : Working}

/-- Past the bound no divisor up to the root is left, so `x` is prime (R142). -/
theorem IsprimeHead.primeNumber (h : IsprimeHead x w) (hend : w.lim.toNat < w.d.toNat) : PrimeNumber x := by
  obtain ⟨h3, -, hlim, -, -, -, hno⟩ := h
  exact primeNumber_iff_prime.2 <| Nat.prime_def_le_sqrt.2
    ⟨by omega, fun q h2 hq => hno q h2 ((hq.trans hlim.ge).trans_lt hend)⟩

/-- A trial divisor up to the bound is below `x`, so where it divides `x` is not prime (R142). -/
theorem IsprimeHead.not_primeNumber (h : IsprimeHead x w) (hle : w.d.toNat ≤ w.lim.toNat) (hdvd : w.d.toNat ∣ x) :
    ¬ PrimeNumber x := by
  obtain ⟨h3, -, hlim, hd3, -, -, -⟩ := h
  have hlt : Nat.sqrt x < x := Nat.sqrt_lt_self (by omega)
  exact not_primeNumber_of_dvd (by omega) (by omega) hdvd

/-- The increment of a divisor up to the bound does not wrap (R141). -/
theorem toNat_isprimeNext_d (hle : w.d.toNat ≤ w.lim.toNat) : (isprimeNext w).d.toNat = w.d.toNat + 2 := by
  have hlim : w.lim.toNat < 2 ^ 32 := w.lim.isLt
  exact BitVec.toNat_add_of_lt (by change w.d.toNat + 2 < 2 ^ 33; omega)

/-- A divisor that leaves a remainder is passed, and the even number after it with it: `x` is odd (R141). -/
theorem IsprimeHead.next (h : IsprimeHead x w) (hle : w.d.toNat ≤ w.lim.toNat) (hndvd : ¬ w.d.toNat ∣ x) :
    IsprimeHead x (isprimeNext (isprimeDivide w)) := by
  have hnext : (isprimeNext (isprimeDivide w)).d.toNat = w.d.toNat + 2 := toNat_isprimeNext_d (w := isprimeDivide w) hle
  obtain ⟨h3, hodd, hlim, hd3, hdodd, -, hno⟩ := h
  refine ⟨h3, hodd, hlim, by omega, by omega, by rw [isprimeNext_lim, isprimeDivide_lim]; omega, fun q h2 hq hdvd => ?_⟩
  obtain hlt | rfl | rfl : q < w.d.toNat ∨ q = w.d.toNat ∨ q = w.d.toNat + 1 := by omega
  · exact hno q h2 hlt hdvd
  · exact hndvd hdvd
  · have heven : 2 ∣ x := (Nat.dvd_of_mod_eq_zero (by omega)).trans hdvd
    omega

/-! ### The unit in the trial loop -/

variable {s : State}

/-- RM takes the remainder of the argument by the divisor (R97, R141). -/
theorem isprimeDivide_rm_eq_zero_iff : (isprimeDivide w).rm = 0#65 ↔ w.d.toNat ∣ w.a.toNat := by
  have hlt : w.a.toNat % w.d.toNat < 2 ^ 65 := (Nat.mod_le _ _).trans_lt (w.a.isLt.trans (by decide))
  have hrm : (isprimeDivide w).rm.toNat = w.a.toNat % w.d.toNat :=
    (BitVec.toNat_ofNat _ _).trans (Nat.mod_eq_of_lt hlt)
  rw [← BitVec.toNat_inj, hrm, Nat.dvd_iff_mod_eq_zero]
  rfl

/-- The unit at the head of the trial loop, D past the bound: the answer is 1 (R141). -/
theorem unitStep_primeLoop_of_lim_lt (hend : w.lim.toNat < w.d.toNat) :
    unitStep (microStep w .primeLoop s) = .next (microStep w (.ready 1#64) s) :=
  if_pos hend

/-- The unit at the head of the trial loop, D up to the bound and a divisor: the answer is 0 (R141). -/
theorem unitStep_primeLoop_of_dvd (hle : w.d.toNat ≤ w.lim.toNat) (hd : w.d ≠ 0#33) (hdvd : w.d.toNat ∣ w.a.toNat) :
    unitStep (microStep w .primeLoop s) = .next (microStep (isprimeDivide w) (.ready 0#64) s) :=
  ((if_neg (Nat.not_lt_of_le hle)).trans (if_neg hd)).trans (if_pos (isprimeDivide_rm_eq_zero_iff.2 hdvd))

/-- The unit at the head of the trial loop, D up to the bound and no divisor: the next D (R141). -/
theorem unitStep_primeLoop_of_not_dvd (hle : w.d.toNat ≤ w.lim.toNat) (hd : w.d ≠ 0#33)
    (hndvd : ¬ w.d.toNat ∣ w.a.toNat) :
    unitStep (microStep w .primeLoop s) = .next (microStep (isprimeNext (isprimeDivide w)) .primeLoop s) :=
  ((if_neg (Nat.not_lt_of_le hle)).trans (if_neg hd)).trans (if_neg (mt isprimeDivide_rm_eq_zero_iff.1 hndvd))

theorem IsprimeHead.d_ne_zero (h : IsprimeHead x w) : w.d ≠ 0#33 := by
  obtain ⟨-, -, -, hd3, -, -, -⟩ := h
  rintro h0
  simp [h0] at hd3

/-- With at most `n` divisors up to the bound to come the trial loop answers within `n` passes and one step (R142, R144). -/
theorem IsprimeHead.unitReaches_ready {n : Nat} (h : IsprimeHead w.a.toNat w) (hn : w.lim.toNat < w.d.toNat + 2 * n)
    (b m : Nat) (s : State) :
    ∃ (v : Working) (r : Word), IsResult .isprime w.a.toNat b m r.toNat ∧
      UnitReaches (n + 1) (microStep w .primeLoop s) (microStep v (.ready r) s) := by
  induction n generalizing w with
  | zero =>
    exact ⟨w, 1#64, isResult_isprime_one (h.primeNumber hn), unitReaches_of_unitStep (unitStep_primeLoop_of_lim_lt hn)⟩
  | succ n ih =>
    obtain hend | hle := Nat.lt_or_ge w.lim.toNat w.d.toNat
    · exact ⟨w, 1#64, isResult_isprime_one (h.primeNumber hend),
        (unitReaches_of_unitStep (unitStep_primeLoop_of_lim_lt hend)).mono (by omega)⟩
    by_cases hdvd : w.d.toNat ∣ w.a.toNat
    · exact ⟨isprimeDivide w, 0#64, isResult_isprime_zero (h.not_primeNumber hle hdvd),
        (unitReaches_of_unitStep (unitStep_primeLoop_of_dvd hle h.d_ne_zero hdvd)).mono (by omega)⟩
    · have hn' : w.lim.toNat < (isprimeNext (isprimeDivide w)).d.toNat + 2 * n := by
        rw [toNat_isprimeNext_d (w := isprimeDivide w) hle, isprimeDivide_d]
        omega
      obtain ⟨v, r, hr, hrest⟩ := ih (w := isprimeNext (isprimeDivide w)) (h.next hle hdvd) hn'
      have hpass := unitReaches_of_unitStep (unitStep_primeLoop_of_not_dvd (s := s) hle h.d_ne_zero hdvd)
      exact ⟨v, r, hr, (hpass.trans hrest).mono (by omega)⟩

end

/-! ### ISPRIME from its acceptance -/

/-- The unit's first step on an accepted ISPRIME is the first test, on the snapshot (R140, R141). -/
theorem unitStep_accept_isprime (s : State) :
    unitStep (accept (commandWord .isprime) s) = isprimeStart (accept (commandWord .isprime) s) := by
  rw [unitStep, accept_seq]
  simp only [startOperation, commandOfOpcode_accept]

/-- The unit, having entered the root of an odd argument, answers after 32 passes, the return, and the trial loop
(R141, R142). -/
theorem unitReaches_ready_of_isqrtLoad {w : Working} (h3 : 3 ≤ w.a.toNat) (hodd : w.a.toNat % 2 = 1) (b m : Nat)
    (s : State) :
    ∃ (v : Working) (r : Word), IsResult .isprime w.a.toNat b m r.toNat ∧
      UnitReaches (34 + (Nat.sqrt w.a.toNat - 1) / 2) (microStep (isqrtLoad w.a w) (.sqrtLoop .primeBound) s)
        (microStep v (.ready r) s) := by
  obtain ⟨v, ⟨ha, -⟩, hsq, hroot⟩ :=
    (isqrtBefore_isqrtLoad w.a w).unitReaches_isqrtReturn (use := .primeBound) (s := s) w.a.isLt le_rfl
  have hva : (isprimeBound v).a = w.a := ha
  have hhead : IsprimeHead (isprimeBound v).a.toNat (isprimeBound v) :=
    hva ▸ isprimeHead_isprimeBound w.a.isLt h3 hodd hsq
  have hbound : (isprimeBound v).lim.toNat < (isprimeBound v).d.toNat + 2 * ((Nat.sqrt w.a.toNat - 1) / 2) := by
    have hd : (isprimeBound v).d.toNat = 3 := rfl
    rw [toNat_isprimeBound_lim w.a.isLt hsq, hd]
    omega
  obtain ⟨u, r, hr, hloop⟩ := hhead.unitReaches_ready hbound b m s
  exact ⟨u, r, hva ▸ hr, (hroot.trans hloop).mono (by omega)⟩

/-- An accepted ISPRIME has its answer ready after the first test, the root and the trial loop (R142, R144). -/
theorem unitReaches_ready_of_accept_isprime (b m : Nat) (s : State) :
    ∃ (v : Working) (r : Word), IsResult .isprime s.opa.toNat b m r.toNat ∧
      UnitReaches (35 + (Nat.sqrt s.opa.toNat - 1) / 2) (accept (commandWord .isprime) s)
        (microStep v (.ready r) (accept (commandWord .isprime) s)) := by
  obtain ⟨r, hr, hstart⟩ | ⟨h3, hodd, hstart⟩ := isprimeStart_cases b m (accept (commandWord .isprime) s)
  · have hfirst := unitReaches_of_unitStep ((unitStep_accept_isprime s).trans hstart)
    exact ⟨_, r, hr, hfirst.mono (by omega)⟩
  · have hfirst := unitReaches_of_unitStep ((unitStep_accept_isprime s).trans hstart)
    obtain ⟨v, r, hr, hrest⟩ := unitReaches_ready_of_isqrtLoad h3 hodd b m (accept (commandWord .isprime) s)
    exact ⟨v, r, hr, (hfirst.trans hrest).mono (by simp only [accept_w, snapshot]; omega)⟩

/-- Settles O55: acceptance, the first test, the root and the trial loop, and the completion. -/
theorem isprimeCompletesWithThePrimality : Obligations.IsprimeCompletesWithThePrimality := by
  intro s herr hbusy
  have haccept := exec_instrOfCommand_eq_accept (c := .isprime) herr hbusy nofun
  obtain ⟨v, r, ⟨hone, hzero⟩, n, -, hrun⟩ :=
    unitReaches_ready_of_accept_isprime s.opb.toNat s.modulus.toNat s
  exact ⟨_, _, _, haccept, run_complete_of_ready hrun, fun hp => BitVec.eq_of_toNat_eq (hone hp),
    fun hn => BitVec.eq_of_toNat_eq (hzero hn), completeFlags_acceptFlags hbusy, rfl, rfl, rfl, rfl, rfl, rfl, rfl, rfl⟩

end Sys2Proof.Machine
end

section
/-! SUPPORT. The running operation stays on its way to its result (R113, R123, R133, R141): from every micro-position
before the completion the unit steps on, to a position whose invariant holds again. Assembled into `OperationInv.unitStep`. -/
namespace Sys2Proof.Machine

/-! ### Where an operation stands -/

/-- An operation of command `c` runs, and the invariant of its micro-position holds. -/
def OnCourse (c : Command) (s : State) : Prop := ∃ pos, s.seq = .run pos ∧ PositionInv c s.w pos

/-- The unit steps on, to a micro-position whose invariant holds. -/
def StepsOnCourse (c : Command) (s : State) : Prop := ∃ t, unitStep s = .next t ∧ OnCourse c t

theorem stepsOnCourse_of_microStep {c : Command} {s s' : State} {w : Working} {pos : MicroPos}
    (hstep : unitStep s = .next (microStep w pos s')) (h : PositionInv c w pos) : StepsOnCourse c s :=
  ⟨_, hstep, pos, rfl, h⟩

/-- A state inside RUN is its own micro-position, entered with its own working registers. -/
theorem microStep_w_of_seq {s : State} {pos : MicroPos} (hseq : s.seq = .run pos) : microStep s.w pos s = s := by
  rw [microStep, ← hseq]

theorem OperationInv.position {s : State} {pos : MicroPos} (h : OperationInv s) (hseq : s.seq = .run pos) :
    ∃ c, commandOfOpcode s.w.opc = some c ∧ (needsModulus c = true → 0 < s.w.m.toNat) ∧ PositionInv c s.w pos := by
  unfold OperationInv at h
  rwa [hseq] at h

theorem operationInv_of_position {s : State} {pos : MicroPos} {c : Command} (hseq : s.seq = .run pos)
    (hopc : commandOfOpcode s.w.opc = some c) (hm : needsModulus c = true → 0 < s.w.m.toNat)
    (h : PositionInv c s.w pos) : OperationInv s := by
  unfold OperationInv
  rw [hseq]
  exact ⟨c, hopc, hm, h⟩

/-- `OperationInv` speaks of `seq` and the working registers alone. -/
theorem OperationInv.congr {s t : State} (h : OperationInv s) (hseq : t.seq = s.seq) (hw : t.w = s.w) :
    OperationInv t := by
  unfold OperationInv
  rw [hseq, hw]
  exact h

section
variable {a b base e m : Nat} {v w : Working} {c : Command} {s : State}

theorem word_ne_zero_of_toNat_pos {x : Word} (h : 0 < x.toNat) : x ≠ 0#64 := by
  rintro rfl
  exact absurd h (by decide)

/-! ### The mulmod loop -/

theorem mulmodHead_mulmodLoad (a b : Word) {m : Word} (hm : m ≠ 0#64) (w : Working) :
    MulmodHead a.toNat b.toNat m.toNat (mulmodLoad a b m w) :=
  mulmodHead_iff.2 ⟨0, mulmodAfter_mulmodLoad a b hm w⟩

theorem MulmodHead.pass {m : Word} (h : MulmodHead a b m.toNat w) (hk : w.k ≠ 0#64) :
    MulmodHead a b m.toNat (mulmodPass m w) :=
  let ⟨j, hj⟩ := mulmodHead_iff.1 h
  mulmodHead_iff.2 ⟨j + 1, hj.mulmodPass hk⟩

theorem MulmodHead.product (h : MulmodHead a b m w) (hk : w.k = 0#64) : w.acc.toNat = a * b % m :=
  let ⟨_, hj⟩ := mulmodHead_iff.1 h
  hj.product hk

theorem MulmodHead.modulus_ne_zero {m : Word} (h : MulmodHead a b m.toNat w) : m ≠ 0#64 :=
  word_ne_zero_of_toNat_pos h.1

/-- POWMOD's loop invariant does not speak of the registers of a mulmod. -/
theorem PowmodHead.congr (h : PowmodHead base e m w) (hpe : v.pe = w.pe) (hpb : v.pb = w.pb) (hpr : v.pr = w.pr) :
    PowmodHead base e m v := by
  unfold PowmodHead
  rwa [hpe, hpb, hpr]

/-- Nor does its invariant before the square. -/
theorem PowmodSquaring.congr (h : PowmodSquaring base e m w) (hpe : v.pe = w.pe) (hpb : v.pb = w.pb)
    (hpr : v.pr = w.pr) : PowmodSquaring base e m v := by
  unfold PowmodSquaring
  rwa [hpe, hpb, hpr]

theorem getLsbD_zero_eq_true_iff {x : Word} : x.getLsbD 0 = true ↔ x.toNat % 2 = 1 := by
  simp [BitVec.getLsbD]

/-- The mulmod that runs at a position has a modulus. -/
theorem PositionInv.modulus_ne_zero {use : MulUse} (h : PositionInv c w (.mulLoop use)) : w.m ≠ 0#64 := by
  cases use with
  | command => exact h.2.modulus_ne_zero
  | powMultiply => exact h.2.2.2.modulus_ne_zero
  | powSquare => exact h.2.2.modulus_ne_zero

/-- A pass of a mulmod, whoever runs it (R113). -/
theorem PositionInv.mulmodPass {use : MulUse} (h : PositionInv c w (.mulLoop use)) (hk : w.k ≠ 0#64) :
    PositionInv c (mulmodPass w.m w) (.mulLoop use) := by
  cases use with
  | command =>
    obtain ⟨hc, hmul⟩ := h
    simpa [PositionInv, hc] using hmul.pass hk
  | powMultiply =>
    obtain ⟨hc, hhead, hodd, hmul⟩ := h
    simp only [PositionInv, mulmodPass_a, mulmodPass_b, mulmodPass_m, mulmodPass_pe, mulmodPass_pr, mulmodPass_pb]
    exact ⟨hc, hhead.congr (mulmodPass_pe ..) (mulmodPass_pb ..) (mulmodPass_pr ..), hodd, hmul.pass hk⟩
  | powSquare =>
    obtain ⟨hc, hsq, hmul⟩ := h
    simp only [PositionInv, mulmodPass_a, mulmodPass_b, mulmodPass_m, mulmodPass_pb]
    exact ⟨hc, hsq.congr (mulmodPass_pe ..) (mulmodPass_pb ..) (mulmodPass_pr ..), hmul.pass hk⟩

/-- The return of a mulmod, to whoever runs it (R112, R123). -/
theorem PositionInv.mulmodReturn {use : MulUse} (h : PositionInv c s.w (.mulLoop use)) (hk : s.w.k = 0#64) :
    OnCourse c (mulmodReturn use s) := by
  cases use with
  | command =>
    obtain ⟨rfl, hmul⟩ := h
    exact ⟨_, rfl, hmul.product hk⟩
  | powMultiply =>
    obtain ⟨hc, hhead, hodd, hmul⟩ := h
    exact ⟨.powShift, rfl, hc, hhead.multiplied (getLsbD_zero_eq_true_iff.2 hodd) rfl rfl (hmul.product hk)⟩
  | powSquare =>
    obtain ⟨hc, hsq, hmul⟩ := h
    exact ⟨.powLoop, rfl, hc, hsq.head rfl rfl (hmul.product hk)⟩

theorem PositionInv.stepsOnCourse_mulLoop {use : MulUse} (h : PositionInv c w (.mulLoop use)) (s : State) :
    StepsOnCourse c (microStep w (.mulLoop use) s) := by
  by_cases hk : w.k = 0#64
  · exact ⟨_, unitStep_mulLoop_of_k_eq_zero rfl hk, h.mulmodReturn hk⟩
  · exact stepsOnCourse_of_microStep (unitStep_mulLoop_of_k_ne_zero rfl h.modulus_ne_zero hk) (h.mulmodPass hk)

/-! ### The powmod loop -/

theorem PositionInv.stepsOnCourse_powLoop (h : PositionInv c w .powLoop) (hm : needsModulus c = true → 0 < w.m.toNat)
    (s : State) : StepsOnCourse c (microStep w .powLoop s) := by
  obtain ⟨rfl, hhead⟩ := h
  have hm0 : w.m ≠ 0#64 := word_ne_zero_of_toNat_pos (hm rfl)
  by_cases hpe : w.pe = 0#64
  · exact stepsOnCourse_of_microStep (unitStep_powLoop_of_pe_eq_zero hpe) (hhead.result hpe)
  by_cases hbit : w.pe.getLsbD 0 = true
  · exact stepsOnCourse_of_microStep (unitStep_powLoop_of_bit_eq_true hm0 hpe hbit)
      ⟨rfl, hhead, getLsbD_zero_eq_true_iff.1 hbit, mulmodHead_mulmodLoad w.pr w.pb hm0 w⟩
  · exact stepsOnCourse_of_microStep (unitStep_powLoop_of_bit_eq_false hpe hbit)
      ⟨rfl, hhead.multiplied_of_bit_eq_false (Bool.eq_false_of_not_eq_true hbit) hpe⟩

theorem PositionInv.stepsOnCourse_powShift (h : PositionInv c w .powShift)
    (hm : needsModulus c = true → 0 < w.m.toNat) (s : State) : StepsOnCourse c (microStep w .powShift s) := by
  obtain ⟨rfl, hmul⟩ := h
  have hm0 : w.m ≠ 0#64 := word_ne_zero_of_toNat_pos (hm rfl)
  by_cases hpe : (powmodShift w).pe = 0#64
  · exact stepsOnCourse_of_microStep (unitStep_powShift_of_pe_eq_zero hpe) ⟨rfl, hmul.head hpe⟩
  · exact stepsOnCourse_of_microStep (unitStep_powShift_of_pe_ne_zero hm0 hpe)
      ⟨rfl, hmul.squaring hpe, mulmodHead_mulmodLoad w.pb w.pb hm0 (powmodShift w)⟩

/-! ### The isqrt loop -/

theorem IsqrtHead.pass {x : Nat} (h : IsqrtHead x w) (hx : x < 2 ^ 64) (hsb : w.sb ≠ 0#64) :
    IsqrtHead x (isqrtPass w) := by
  obtain ⟨n, hn, hbefore⟩ := isqrtHead_iff.1 h
  cases n with
  | zero => exact absurd hbefore.sb_eq_zero hsb
  | succ n => exact isqrtHead_iff.2 ⟨n, Nat.le_of_succ_le hn, hbefore.pass hx hn⟩

theorem IsqrtHead.toNat_sq_eq_sqrt {x : Nat} (h : IsqrtHead x w) (hsb : w.sb = 0#64) : w.sq.toNat = Nat.sqrt x := by
  obtain ⟨n, -, hbefore⟩ := isqrtHead_iff.1 h
  cases n with
  | zero => exact hbefore.toNat_sq_eq_sqrt
  | succ n => exact absurd hsb hbefore.sb_ne_zero

/-- A pass of a square root, whoever runs it (R133). -/
theorem PositionInv.isqrtPass {use : SqrtUse} (h : PositionInv c w (.sqrtLoop use)) (hsb : w.sb ≠ 0#64) :
    PositionInv c (isqrtPass w) (.sqrtLoop use) := by
  cases use with
  | command =>
    obtain ⟨hc, hroot⟩ := h
    simpa [PositionInv, hc] using hroot.pass w.a.isLt hsb
  | primeBound =>
    obtain ⟨hc, h3, hodd, hroot⟩ := h
    simpa [PositionInv, hc, h3, hodd] using hroot.pass w.a.isLt hsb

/-- The return of a square root: the result of ISQRT, or the bound with which ISPRIME's trial loop begins (R132, R141). -/
theorem PositionInv.isqrtReturn {use : SqrtUse} (h : PositionInv c s.w (.sqrtLoop use)) (hsb : s.w.sb = 0#64) :
    OnCourse c (isqrtReturn use s) := by
  cases use with
  | command =>
    obtain ⟨rfl, hroot⟩ := h
    have hsq := hroot.toNat_sq_eq_sqrt hsb
    exact ⟨.ready s.w.sq, rfl, hsq ▸ Nat.sqrt_le _, hsq ▸ Nat.lt_succ_sqrt _⟩
  | primeBound =>
    obtain ⟨hc, h3, hodd, hroot⟩ := h
    exact ⟨.primeLoop, rfl, hc, isprimeHead_isprimeBound s.w.a.isLt h3 hodd (hroot.toNat_sq_eq_sqrt hsb)⟩

theorem PositionInv.stepsOnCourse_sqrtLoop {use : SqrtUse} (h : PositionInv c w (.sqrtLoop use)) (s : State) :
    StepsOnCourse c (microStep w (.sqrtLoop use) s) := by
  by_cases hsb : w.sb = 0#64
  · exact ⟨_, unitStep_sqrtLoop_of_sb_eq_zero hsb, PositionInv.isqrtReturn h hsb⟩
  · exact stepsOnCourse_of_microStep (unitStep_sqrtLoop_of_sb_ne_zero hsb) (h.isqrtPass hsb)

/-! ### The trial loop of ISPRIME -/

theorem PositionInv.stepsOnCourse_primeLoop (h : PositionInv c w .primeLoop) (s : State) :
    StepsOnCourse c (microStep w .primeLoop s) := by
  obtain ⟨rfl, hhead⟩ := h
  obtain hend | hle := Nat.lt_or_ge w.lim.toNat w.d.toNat
  · exact stepsOnCourse_of_microStep (unitStep_primeLoop_of_lim_lt hend)
      (isResult_isprime_one (b := w.b.toNat) (m := w.m.toNat) (hhead.primeNumber hend))
  by_cases hdvd : w.d.toNat ∣ w.a.toNat
  · exact stepsOnCourse_of_microStep (unitStep_primeLoop_of_dvd hle hhead.d_ne_zero hdvd)
      (isResult_isprime_zero (b := w.b.toNat) (m := w.m.toNat) (hhead.not_primeNumber hle hdvd))
  · exact stepsOnCourse_of_microStep (unitStep_primeLoop_of_not_dvd hle hhead.d_ne_zero hdvd) ⟨rfl, hhead.next hle hdvd⟩

/-! ### The first step of an operation -/

/-- The first step starts the invariant of its command's micro-program, on the snapshot (R111, R121, R131, R141). -/
theorem stepsOnCourse_load (hopc : commandOfOpcode w.opc = some c) (hm : needsModulus c = true → 0 < w.m.toNat)
    (s : State) : StepsOnCourse c (microStep w .load s) := by
  have hstart : unitStep (microStep w .load s) = startOperation (microStep w .load s) := rfl
  simp only [startOperation, microStep_w, hopc] at hstart
  cases c with
  | mulmod =>
    have hm0 : w.m ≠ 0#64 := word_ne_zero_of_toNat_pos (hm rfl)
    exact stepsOnCourse_of_microStep (hstart.trans (if_neg hm0)) ⟨rfl, mulmodHead_mulmodLoad w.a w.b hm0 w⟩
  | powmod =>
    exact stepsOnCourse_of_microStep (hstart.trans (powmodStart_eq _)) ⟨rfl, powmodHead_powmodLoad w w.m.toNat⟩
  | isqrt =>
    exact stepsOnCourse_of_microStep (pos := .sqrtLoop .command) hstart
      ⟨rfl, isqrtHead_iff.2 ⟨32, le_rfl, isqrtBefore_isqrtLoad w.a w⟩⟩
  | isprime =>
    obtain ⟨r, hr, hs⟩ | ⟨h3, hodd, hs⟩ := isprimeStart_cases w.b.toNat w.m.toNat (microStep w .load s)
    · exact stepsOnCourse_of_microStep (hstart.trans hs) hr
    · exact stepsOnCourse_of_microStep (hstart.trans hs)
        ⟨rfl, h3, hodd, isqrtHead_iff.2 ⟨32, le_rfl, isqrtBefore_isqrtLoad w.a w⟩⟩

/-! ### Every position before the completion -/

/-- From every position but the last the unit steps on, on course (R33 (e), R155). -/
theorem PositionInv.stepsOnCourse {pos : MicroPos} (h : PositionInv c w pos) (hopc : commandOfOpcode w.opc = some c)
    (hm : needsModulus c = true → 0 < w.m.toNat) (hpos : ∀ v, pos ≠ .ready v) (s : State) :
    StepsOnCourse c (microStep w pos s) := by
  cases pos with
  | load => exact stepsOnCourse_load hopc hm s
  | mulLoop use => exact h.stepsOnCourse_mulLoop s
  | powLoop => exact h.stepsOnCourse_powLoop hm s
  | powShift => exact h.stepsOnCourse_powShift hm s
  | sqrtLoop use => exact h.stepsOnCourse_sqrtLoop s
  | primeLoop => exact h.stepsOnCourse_primeLoop s
  | ready v => exact absurd rfl (hpos v)

end

/-- A step of the unit keeps the operation on its way to its result (R113, R123, R133, R141). -/
theorem OperationInv.unitStep {s t : State} (h : OperationInv s) (hs : unitStep s = .next t) : OperationInv t := by
  obtain ⟨-, rfl⟩ | ⟨hrun, w, pos', ⟨-, -, hwm, hwopc⟩, rfl⟩ | ⟨v, -, rfl⟩ := unitStep_cases hs
  · exact h
  · cases hseq : s.seq with
    | idle => exact absurd hseq hrun
    | run pos =>
      obtain ⟨c, hopc, hm, hpos⟩ := h.position hseq
      have hnot : ∀ v, pos ≠ .ready v := by
        rintro v rfl
        cases congrArg State.seq (Host.Outcome.next.inj ((unitStep_ready hseq).symm.trans hs))
      obtain ⟨u, hu, pos'', hseq', hpos'⟩ := hpos.stepsOnCourse hopc hm hnot s
      rw [microStep_w_of_seq hseq] at hu
      cases hu.symm.trans hs
      exact operationInv_of_position hseq' (by rwa [microStep_w, hwopc]) (by rwa [microStep_w, hwm]) hpos'
  · exact trivial

/-- Settles O32: at its last position the invariant is the result law, and the unit's step is the completion. -/
theorem completionWritesTheResult : Obligations.CompletionWritesTheResult := by
  rintro s v ⟨-, hop⟩ hseq
  obtain ⟨c, hopc, -, hres⟩ := hop.position hseq
  refine ⟨c, hopc, hres, _, unitStep_ready hseq, rfl, fun hien => ?_⟩
  simp [irq, hien]

end Sys2Proof.Machine
end

section
/-! SUPPORT. The host's port, transaction by transaction (45_host_control.md R150 to R160): what each write and read does,
and that only a completion or a reset writes RES. -/
namespace Sys2Proof.Machine

/-! ### The words STATUS and CTRL read as -/

/-- STATUS reads as the sum of its flags' weights and 16 times its cause code (R25, R150). -/
theorem statusWord_eq_ofNat (st : Status) :
    statusWord st = BitVec.ofNat 64 (st.busy.toNat + 2 * st.done.toNat + 4 * st.err.toNat +
      16 * (causeCode st.cause).toNat) := by
  obtain ⟨busy, done, err, cause⟩ := st
  revert busy done err
  cases cause <;> decide

/-- Bit 0 of what STATUS reads as is BUSY (R25). -/
theorem statusWord_getLsbD_zero (st : Status) : (statusWord st).getLsbD 0 = st.busy := by
  obtain ⟨busy, done, err, cause⟩ := st
  revert busy done err
  cases cause <;> decide

/-- CTRL reads as the sum of its enables' weights (R26, R150). -/
theorem ctrlWord_eq_ofNat (c : Ctrl) : ctrlWord c = BitVec.ofNat 64 (c.ienDone.toNat + 2 * c.ienErr.toNat) := by
  obtain ⟨ienDone, ienErr⟩ := c
  revert ienDone ienErr
  decide

/-- Settles O10: a read returns its register's value, and the two packed registers' words are the sums of their fields. -/
theorem readsReturnTheRegisters : Obligations.ReadsReturnTheRegisters := by
  intro s
  refine ⟨exec_readInstr .opa s, exec_readInstr .opb s, exec_readInstr .mod s, exec_readInstr .res s,
    exec_readInstr .cmd s, ?_, ?_, exec_readInstr .r7 s, decode_portWord_read⟩
  · rw [← statusWord_eq_ofNat]
    exact exec_readInstr .status s
  · rw [← ctrlWord_eq_ofNat]
    exact exec_readInstr .ctrl s

/-! ### The writes -/

/-- Settles O13: the three operand writes are arms of `exec`. -/
theorem operandWritesStoreTheWord : Obligations.OperandWritesStoreTheWord := fun _ _ => ⟨rfl, rfl, rfl⟩

/-- Clearing a flag where a bit of the word is set is masking it (R156). -/
theorem clearFlags_eq (v : Word) (st : Status) :
    clearFlags v st = {
      busy := st.busy
      done := st.done && !v.getLsbD 1
      err := st.err && !v.getLsbD 2
      cause := if v.getLsbD 2 = true then .none else st.cause } := by
  unfold clearFlags
  cases v.getLsbD 1 <;> cases v.getLsbD 2 <;> simp

/-- Settles O15: a write of STATUS is `clearFlags`. -/
theorem statusWriteClearsFlags : Obligations.StatusWriteClearsFlags := by
  intro v s
  rw [← clearFlags_eq]
  rfl

/-- A write of CTRL without bit 2 sets the enables (R157). -/
theorem exec_wrCtrl_of_not_bit2 {v : Word} (hv : v.getLsbD 2 = false) (s : State) :
    exec (.wrCtrl v) s = .next { s with ctrl := { ienDone := v.getLsbD 0, ienErr := v.getLsbD 1 } } :=
  congrArg _ (if_neg (hv ▸ Bool.false_ne_true))

/-- Settles O16: without bit 2 the enables are set, with it the block is reset. -/
theorem ctrlWriteSetsTheEnables : Obligations.CtrlWriteSetsTheEnables := fun _ s =>
  ⟨fun hv => ⟨_, exec_wrCtrl_of_not_bit2 hv s, rfl, rfl⟩, fun hv => ⟨_, exec_wrCtrl_of_bit2 hv s, rfl, rfl⟩⟩

/-! ### The submission -/

/-- MULMOD and POWMOD are the commands that need MOD (R34). -/
theorem needsModulus_eq_true_iff {c : Command} :
    needsModulus c = true ↔ commandWord c = 1#64 ∨ commandWord c = 2#64 := by
  cases c <;> decide

/-- The submission as one chain of tests on the word and the state, in the order of R196. -/
theorem submitCommand_eq_ite (v : Word) (s : State) :
    submitCommand v s =
      if s.status.err = true then s
      else if s.status.busy = true then reject .cmdWhileBusy s
      else if v ≠ 1#64 ∧ v ≠ 2#64 ∧ v ≠ 3#64 ∧ v ≠ 4#64 then reject .illegalCmd s
      else if (v = 1#64 ∨ v = 2#64) ∧ s.modulus = 0#64 then reject .modZero s
      else accept v s := by
  have hlegal : ∀ c, ¬ (commandWord c ≠ 1#64 ∧ commandWord c ≠ 2#64 ∧ commandWord c ≠ 3#64 ∧ commandWord c ≠ 4#64) :=
    fun c h => forall_ne_commandWord_iff.2 h c rfl
  obtain ⟨herr, hs⟩ | ⟨herr, hbusy, hs⟩ | ⟨herr, hbusy, hd, hs⟩ | ⟨c, herr, hbusy, hd, hc, hmod, hs⟩ |
    ⟨c, herr, hbusy, hd, hmod, hs⟩ := submitCommand_cases v s
  all_goals rw [hs]
  · rw [if_pos herr]
  · rw [if_neg (by simp [herr]), if_pos hbusy]
  · rw [if_neg (by simp [herr]), if_neg (by simp [hbusy]),
      if_pos (forall_ne_commandWord_iff.1 (exists_decodeCommand_eq_error_iff.1 hd))]
  · obtain rfl := decodeCommand_eq_ok_iff.1 hd
    rw [if_neg (by simp [herr]), if_neg (by simp [hbusy]), if_neg (hlegal c),
      if_pos ⟨needsModulus_eq_true_iff.1 hc, hmod⟩]
  · obtain rfl := decodeCommand_eq_ok_iff.1 hd
    rw [if_neg (by simp [herr]), if_neg (by simp [hbusy]), if_neg (hlegal c),
      if_neg fun ⟨hv, h0⟩ => hmod (needsModulus_eq_true_iff.2 hv) h0]

/-- Settles O18: a write of CMD is the submission of its word. -/
theorem submissionTakesTheFirstOutcome : Obligations.SubmissionTakesTheFirstOutcome := fun v s =>
  congrArg Host.Outcome.next (submitCommand_eq_ite v s)

/-! ### RES -/

section
variable {i : Instr} {e : Event} {s t : State}

theorem submitCommand_res (v : Word) (s : State) : (submitCommand v s).res = s.res := by
  obtain ⟨-, hs⟩ | ⟨-, -, hs⟩ | ⟨-, -, -, hs⟩ | ⟨c, -, -, -, -, -, hs⟩ | ⟨c, -, -, -, -, hs⟩ := submitCommand_cases v s
  all_goals rw [hs]
  all_goals rfl

/-- No instruction but the soft reset writes RES (R21, R159). -/
theorem exec_res (hi : isSoftReset i = false) (h : exec i s = .next t) : t.res = s.res := by
  cases i with
  | mulmod | powmod | isqrt | isprime | wrCmd => cases h; exact submitCommand_res _ s
  | wrCtrl v => cases (exec_wrCtrl_of_not_bit2 hi s).symm.trans h; rfl
  | _ => cases h; rfl

/-- The unit writes RES only at the completion (R21, R154). -/
theorem unitStep_res_ne (h : unitStep s = .next t) (hres : t.res ≠ s.res) : ∃ v, s.seq = .run (.ready v) := by
  obtain ⟨-, rfl⟩ | ⟨-, w, pos, -, rfl⟩ | ⟨v, hseq, -⟩ := unitStep_cases h
  · exact absurd rfl hres
  · exact absurd rfl hres
  · exact ⟨v, hseq⟩

/-- An event that changes RES is the unit's completion, a soft reset or a reset (R21). -/
theorem perform_res_ne (h : perform e s = .next t) (hres : t.res ≠ s.res) :
    (actionOf e = .unit ∧ ∃ v, s.seq = .run (.ready v)) ∨
    (∃ i, actionOf e = .transaction i ∧ isSoftReset i = true) ∨ actionOf e = .reset := by
  obtain ⟨i, ha, hi⟩ | ⟨ha, -⟩ | ⟨ha, hu⟩ | ⟨-, rfl⟩ := perform_cases h
  · exact .inr (.inl ⟨i, ha, by_contra fun hsoft => hres (exec_res (Bool.eq_false_of_not_eq_true hsoft) hi)⟩)
  · exact .inr (.inr ha)
  · exact .inl ⟨ha, unitStep_res_ne hu hres⟩
  · exact absurd rfl hres

end

/-- Settles O14: the two writes are arms of `exec` that answer their state, and the step is a step of the unit or the
first input's event. -/
theorem writesOfResAndIndex7AreIgnored : Obligations.WritesOfResAndIndex7AreIgnored := by
  refine ⟨fun v s => ⟨rfl, rfl⟩, fun s t hstep hres => ?_⟩
  obtain ⟨hnil, hs⟩ | ⟨e, rest, hin, hs⟩ := step_cases s
  · exact .inl ⟨.inl hnil, unitStep_res_ne (hs.symm.trans hstep) hres⟩
  · obtain ⟨ha, hready⟩ | ⟨i, ha, hsoft⟩ | ha := perform_res_ne (hs.symm.trans hstep) hres
    · exact .inl ⟨.inr ⟨e, rest, hin, ha⟩, hready⟩
    · exact .inr (.inl ⟨e, rest, i, hin, ha, hsoft⟩)
    · exact .inr (.inr ⟨e, rest, hin, ha⟩)

end Sys2Proof.Machine
end

section
/-! SUPPORT. A call under every interleaving (45_host_control.md R162): while the events are quiet the operation runs on
from its snapshot, and once complete its result stays in RES. -/
namespace Sys2Proof.Machine

/-! ### What a quiet event leaves alone -/

/-- The host's part of an event leaves the operation alone, and records no fault (R162). -/
structure KeepsOperation (s t : State) : Prop where
  w : t.w = s.w
  seq : t.seq = s.seq
  res : t.res = s.res
  busy : t.status.busy = s.status.busy
  err : s.status.err = false → t.status.err = false

/-- An operand register keeps its value unless the event is the write of it (R20). -/
structure KeepsOperands (a : Action) (s t : State) : Prop where
  opa : (∀ w, a ≠ .transaction (.wrOpa w)) → t.opa = s.opa
  opb : (∀ w, a ≠ .transaction (.wrOpb w)) → t.opb = s.opb
  modulus : (∀ w, a ≠ .transaction (.wrMod w)) → t.modulus = s.modulus

theorem KeepsOperation.refl (s : State) : KeepsOperation s s := ⟨rfl, rfl, rfl, rfl, id⟩

theorem KeepsOperands.of_eq {a : Action} {s t : State} (hopa : t.opa = s.opa) (hopb : t.opb = s.opb)
    (hmod : t.modulus = s.modulus) : KeepsOperands a s t :=
  ⟨fun _ => hopa, fun _ => hopb, fun _ => hmod⟩

section
variable {i : Instr} {e : Event} {s t : State}

theorem exec_keepsOperation (hq : quietInstr i = true) (h : exec i s = .next t) : KeepsOperation s t := by
  cases i with
  | mulmod | powmod | isqrt | isprime | wrCmd => cases hq
  | wrStatus v =>
    cases h
    exact ⟨rfl, rfl, rfl, rfl, fun herr => by simp [herr]⟩
  | wrCtrl v =>
    have hv : v.getLsbD 2 = false := by simpa [quietInstr] using hq
    rw [exec_wrCtrl_of_not_bit2 hv] at h
    cases h
    exact ⟨rfl, rfl, rfl, rfl, id⟩
  | _ =>
    cases h
    exact ⟨rfl, rfl, rfl, rfl, id⟩

theorem exec_keepsOperands (hq : quietInstr i = true) (h : exec i s = .next t) :
    KeepsOperands (.transaction i) s t := by
  cases i with
  | mulmod | powmod | isqrt | isprime | wrCmd => cases hq
  | wrOpa v => cases h; exact ⟨fun hne => absurd rfl (hne v), fun _ => rfl, fun _ => rfl⟩
  | wrOpb v => cases h; exact ⟨fun _ => rfl, fun hne => absurd rfl (hne v), fun _ => rfl⟩
  | wrMod v => cases h; exact ⟨fun _ => rfl, fun _ => rfl, fun hne => absurd rfl (hne v)⟩
  | wrCtrl v =>
    rw [exec_wrCtrl_of_not_bit2 (by simpa [quietInstr] using hq)] at h
    cases h
    exact .of_eq rfl rfl rfl
  | _ => cases h; exact .of_eq rfl rfl rfl

theorem unitStep_keepsOperands (h : unitStep s = .next t) : KeepsOperands .unit s t := by
  obtain ⟨-, rfl⟩ | ⟨-, w, pos, -, rfl⟩ | ⟨v, -, rfl⟩ := unitStep_cases h
  all_goals exact .of_eq rfl rfl rfl

/-- A quiet event is the host's, which leaves the operation alone, or a step of the unit (R162). -/
theorem perform_quiet_cases (hq : quietEvent e = true) (h : perform e s = .next t) :
    KeepsOperands (actionOf e) s t ∧ (KeepsOperation s t ∨ unitStep s = .next t) := by
  obtain ⟨i, ha, hi⟩ | ⟨ha, -⟩ | ⟨ha, hu⟩ | ⟨ha, rfl⟩ := perform_cases h
  all_goals rw [quietEvent, ha] at hq
  all_goals rw [ha]
  · exact ⟨exec_keepsOperands hq hi, .inl (exec_keepsOperation hq hi)⟩
  · cases hq
  · exact ⟨unitStep_keepsOperands hu, .inr hu⟩
  · exact ⟨.of_eq rfl rfl rfl, .inl (.refl t)⟩

end

/-! ### A list of events -/

/-- What each event of a list keeps, the whole list keeps. -/
theorem performAll_induction {P : State → Prop} {es : List Event} {s u : State} (hrun : performAll es s = .next u)
    (hs : P s) (hstep : ∀ e ∈ es, ∀ x y, perform e x = .next y → P x → P y) : P u := by
  induction es generalizing s with
  | nil => cases hrun; exact hs
  | cons e es ih =>
    cases he : perform e s with
    | next t =>
      rw [performAll, he] at hrun
      exact ih hrun (hstep e List.mem_cons_self s t he hs) fun e' h' => hstep e' (List.mem_cons_of_mem e h')
    | fault r => simp [performAll, he] at hrun
    | refused r => simp [performAll, he] at hrun

theorem performAll_eq {f : State → Word} {es : List Event} {s u : State} (hrun : performAll es s = .next u)
    (hstep : ∀ e ∈ es, ∀ x y, perform e x = .next y → f y = f x) : f u = f s :=
  performAll_induction (P := (f · = f s)) hrun rfl fun e he x y hxy hx => (hstep e he x y hxy).trans hx

/-- Over quiet events an operand register that none of them writes keeps its value (R162). -/
theorem performAll_keepsOperands {es : List Event} {s u : State} (hq : ∀ e ∈ es, quietEvent e = true)
    (hrun : performAll es s = .next u) :
    ((∀ e ∈ es, ∀ w, actionOf e ≠ .transaction (.wrOpa w)) → u.opa = s.opa) ∧
    ((∀ e ∈ es, ∀ w, actionOf e ≠ .transaction (.wrOpb w)) → u.opb = s.opb) ∧
    ((∀ e ∈ es, ∀ w, actionOf e ≠ .transaction (.wrMod w)) → u.modulus = s.modulus) := by
  have hkeeps : ∀ e ∈ es, ∀ x y, perform e x = .next y → KeepsOperands (actionOf e) x y := fun e he x y hxy =>
    (perform_quiet_cases (hq e he) hxy).1
  exact ⟨fun hne => performAll_eq hrun fun e he x y hxy => (hkeeps e he x y hxy).opa (hne e he),
    fun hne => performAll_eq hrun fun e he x y hxy => (hkeeps e he x y hxy).opb (hne e he),
    fun hne => performAll_eq hrun fun e he x y hxy => (hkeeps e he x y hxy).modulus (hne e he)⟩

/-! ### The call -/

/-- The operation of a call runs, on its way to the result on the operands `a`, `b` and `m` of its snapshot. -/
structure CallRunning (c : Command) (a b m : Word) (s : State) : Prop where
  busy : s.status.busy = true
  running : s.seq ≠ .idle
  opc : commandOfOpcode s.w.opc = some c
  a : s.w.a = a
  b : s.w.b = b
  m : s.w.m = m
  operation : OperationInv s

/-- The operation of a call is complete, its result in RES. -/
structure CallDone (c : Command) (a b m : Word) (s : State) : Prop where
  busy : s.status.busy = false
  idle : s.seq = .idle
  result : IsResult c a.toNat b.toNat m.toNat s.res.toNat

/-- R162: where a call of `c` on the operands `a`, `b` and `m` stands while the host leaves it alone. -/
structure CallInv (c : Command) (a b m : Word) (s : State) : Prop where
  err : s.status.err = false
  progress : CallRunning c a b m s ∨ CallDone c a b m s

section
variable {c : Command} {a b m : Word} {e : Event} {es : List Event} {s t u : State}

theorem CallRunning.keepsOperation (h : CallRunning c a b m s) (k : KeepsOperation s t) : CallRunning c a b m t where
  busy := k.busy.trans h.busy
  running := k.seq ▸ h.running
  opc := k.w ▸ h.opc
  a := k.w ▸ h.a
  b := k.w ▸ h.b
  m := k.w ▸ h.m
  operation := h.operation.congr k.seq k.w

theorem CallDone.keepsOperation (h : CallDone c a b m s) (k : KeepsOperation s t) : CallDone c a b m t where
  busy := k.busy.trans h.busy
  idle := k.seq.trans h.idle
  result := k.res ▸ h.result

theorem CallInv.keepsOperation (h : CallInv c a b m s) (k : KeepsOperation s t) : CallInv c a b m t where
  err := k.err h.err
  progress := h.progress.imp (·.keepsOperation k) (·.keepsOperation k)

/-- The completion leaves the function's value in RES (R154). -/
theorem CallRunning.complete {v : Word} (h : CallRunning c a b m s) (hseq : s.seq = .run (.ready v)) :
    CallDone c a b m (complete v s) := by
  obtain ⟨-, -, hopc, rfl, rfl, rfl, hop⟩ := h
  obtain ⟨c', hopc', -, hres⟩ := hop.position hseq
  cases hopc.symm.trans hopc'
  exact ⟨rfl, rfl, hres⟩

theorem CallInv.unitStep (h : CallInv c a b m s) (hs : unitStep s = .next t) : CallInv c a b m t := by
  obtain ⟨herr, hrun | hdone⟩ := h
  · obtain ⟨hidle, -⟩ | ⟨-, w, pos, ⟨ha, hb, hm, hopc⟩, rfl⟩ | ⟨v, hseq, rfl⟩ := unitStep_cases hs
    · exact absurd hidle hrun.running
    · exact ⟨herr, .inl ⟨hrun.busy, nofun, hopc ▸ hrun.opc, ha.trans hrun.a, hb.trans hrun.b, hm.trans hrun.m,
        hrun.operation.unitStep hs⟩⟩
    · exact ⟨herr, .inr (hrun.complete hseq)⟩
  · have hsame : Machine.unitStep s = .next s := by rw [Machine.unitStep, hdone.idle]
    cases hsame.symm.trans hs
    exact ⟨herr, .inr hdone⟩

theorem CallInv.perform (h : CallInv c a b m s) (hq : quietEvent e = true) (he : perform e s = .next t) :
    CallInv c a b m t := by
  obtain ⟨-, hkeep | hunit⟩ := perform_quiet_cases hq he
  · exact h.keepsOperation hkeep
  · exact h.unitStep hunit

theorem CallInv.performAll (h : CallInv c a b m s) (hq : ∀ e ∈ es, quietEvent e = true)
    (hrun : performAll es s = .next u) : CallInv c a b m u :=
  performAll_induction hrun h fun e he _ _ hxy hx => hx.perform (hq e he) hxy

/-- With BUSY = 0 the call is complete. -/
theorem CallInv.done (h : CallInv c a b m s) (hbusy : s.status.busy = false) : CallDone c a b m s :=
  h.progress.resolve_left fun hrun => Bool.false_ne_true (hbusy.symm.trans hrun.busy)

/-- An accepted command is a call on the operands as they stand (R153). -/
theorem callInv_accept (herr : s.status.err = false) (hm : needsModulus c = true → s.modulus ≠ 0#64) :
    CallInv c s.opa s.opb s.modulus (accept (commandWord c) s) where
  err := herr
  progress := .inl {
    busy := rfl
    running := nofun
    opc := commandOfOpcode_accept c s
    a := rfl
    b := rfl
    m := rfl
    operation := operationInv_of_position rfl (commandOfOpcode_accept c s)
      (fun hc => BitVec.toNat_pos_of_ne_zero (hm hc)) trivial }

/-- The write of a command's word in the idle, fault-free state is its acceptance (R152, R153). -/
theorem exec_wrCmd_commandWord (herr : s.status.err = false) (hbusy : s.status.busy = false)
    (hm : needsModulus c = true → s.modulus ≠ 0#64) :
    exec (.wrCmd (commandWord c)) s = .next (accept (commandWord c) s) :=
  congrArg _ (submitCommand_commandWord_eq_accept herr hbusy hm)

end

/-- Settles O58: the acceptance starts `CallInv`, quiet events keep it, and BUSY = 0 tells that the call is complete. -/
theorem callReturnsTheFunctionValue : Obligations.CallReturnsTheFunctionValue := by
  intro c s t u v es herr hbusy hm hacc hq hrun hread hbit
  cases (exec_wrCmd_commandWord herr hbusy hm).symm.trans hacc
  cases (exec_readInstr .status u).symm.trans hread
  have hinv : CallInv c s.opa s.opb s.modulus u := (callInv_accept herr hm).performAll hq hrun
  have hidle : u.status.busy = false := (statusWord_getLsbD_zero u.status).symm.trans hbit
  obtain ⟨hopa, hopb, hmod⟩ := performAll_keepsOperands hq hrun
  exact ⟨_, exec_readInstr .res _, (hinv.done hidle).result, hinv.err, hopa, hopb, hmod⟩

end Sys2Proof.Machine
end

section
/-! SUPPORT. The reject, the block's one exception, and the return from it (60_exceptions.md R190 to R203): which
submissions raise it, what it leaves alone, what keeps it recorded, and the interrupt that follows the flags (R198, R199). -/
namespace Sys2Proof.Machine

/-! ### Submissions that end in a reject -/

section
variable {i : Instr} {c : Command} {v : Word} {s t : State}

/-- A submission is the submission of its word, whichever instruction makes it (R152). -/
theorem exec_of_submittedWord (hi : submittedWord i = some v) (s : State) :
    exec i s = .next (submitCommand v s) := by
  cases i with
  | mulmod | powmod | isqrt | isprime | wrCmd => cases hi; rfl
  | _ => cases hi

/-- With a fault recorded a submission is dropped (R197). -/
theorem submitCommand_of_err (herr : s.status.err = true) (v : Word) : submitCommand v s = s := if_pos herr

/-- While BUSY every word is rejected with cause 3, legal or not (R194). -/
theorem submitCommand_of_busy (herr : s.status.err = false) (hbusy : s.status.busy = true) (v : Word) :
    submitCommand v s = reject .cmdWhileBusy s := by
  simp [submitCommand, herr, hbusy]

/-- In the idle, fault-free state a word that is no command is rejected with cause 1 (R192). -/
theorem submitCommand_of_illegal (herr : s.status.err = false) (hbusy : s.status.busy = false)
    (hv : ∃ e, decodeCommand v = .error e) : submitCommand v s = reject .illegalCmd s := by
  obtain ⟨e, he⟩ := hv
  simp [submitCommand, herr, hbusy, he]

/-- In the idle, fault-free state a command that needs MOD is rejected with cause 2 where MOD = 0 (R191). -/
theorem exec_instrOfCommand_of_modulus_eq_zero (herr : s.status.err = false) (hbusy : s.status.busy = false)
    (hc : needsModulus c = true) (hm : s.modulus = 0#64) :
    exec (instrOfCommand c) s = .next (reject .modZero s) := by
  rw [exec_instrOfCommand, submitCommand, decodeCommand_commandWord]
  simp [herr, hbusy, hc, hm]

/-- A word with OPC outside 1 to 4, or with a reserved bit set, is no command's word (R72, R73). -/
theorem exists_decodeCommand_eq_error_of_fields
    (hv : (opcField v).toNat = 0 ∨ 5 ≤ (opcField v).toNat ∨ rsvField v ≠ 0#60) :
    ∃ e, decodeCommand v = .error e := by
  refine exists_decodeCommand_eq_error_iff.2 fun c hword => ?_
  subst hword
  revert hv
  cases c <;> decide

/-! ### What a reject changes -/

/-- A submission that sets ERR is a reject, with a cause (R193). -/
theorem submitCommand_eq_reject (herr : s.status.err = false) (hset : (submitCommand v s).status.err = true) :
    ∃ cause, cause ≠ .none ∧ submitCommand v s = reject cause s := by
  obtain ⟨herr', -⟩ | ⟨-, -, hs⟩ | ⟨-, -, -, hs⟩ | ⟨c, -, -, -, -, -, hs⟩ | ⟨c, -, -, -, -, hs⟩ := submitCommand_cases v s
  · exact absurd (herr.symm.trans herr') Bool.false_ne_true
  · exact ⟨_, by decide, hs⟩
  · exact ⟨_, by decide, hs⟩
  · exact ⟨_, by decide, hs⟩
  · rw [hs] at hset
    exact absurd (herr.symm.trans hset) Bool.false_ne_true

/-- No instruction but a submission sets ERR (R190). -/
theorem exec_err_of_submittedWord_eq_none (hi : submittedWord i = none) (h : exec i s = .next t)
    (herr : s.status.err = false) : t.status.err = false := by
  cases i with
  | mulmod | powmod | isqrt | isprime | wrCmd => cases hi
  | wrStatus v => cases h; simp [herr]
  | wrCtrl v =>
    cases h
    obtain ⟨-, hs⟩ | ⟨-, hs⟩ := writeCtrl_cases v s
    all_goals rw [hs]
    · rfl
    · exact herr
  | _ => cases h; exact herr

/-! ### What keeps a recorded fault -/

/-- ERR and CAUSE stay as they are. -/
def KeepsFault (s t : State) : Prop := t.status.err = s.status.err ∧ t.status.cause = s.status.cause

/-- With a fault recorded, every instruction but a STATUS write with bit 2 and the soft reset keeps it (R202). -/
theorem exec_keepsFault (hclear : clearsError i = false) (hsoft : isSoftReset i = false) (h : exec i s = .next t)
    (herr : s.status.err = true) : KeepsFault s t := by
  cases i with
  | mulmod | powmod | isqrt | isprime | wrCmd =>
    cases h
    rw [submitCommand_of_err herr]
    exact ⟨rfl, rfl⟩
  | wrStatus v =>
    have hv : ¬ v.getLsbD 2 = true := Bool.eq_false_iff.1 hclear
    cases h
    exact ⟨if_neg hv, if_neg hv⟩
  | wrCtrl v =>
    cases (exec_wrCtrl_of_not_bit2 hsoft s).symm.trans h
    exact ⟨rfl, rfl⟩
  | _ => cases h; exact ⟨rfl, rfl⟩

/-- The unit keeps ERR and CAUSE, at its completion too (R154, R202). -/
theorem unitStep_keepsFault (h : unitStep s = .next t) : KeepsFault s t := by
  obtain ⟨-, rfl⟩ | ⟨-, w, pos, -, rfl⟩ | ⟨v, -, rfl⟩ := unitStep_cases h
  all_goals exact ⟨rfl, rfl⟩

/-- A recorded fault outlives every event but a STATUS write with bit 2 and a reset (R202). -/
theorem perform_keepsFault {e : Event} (h : perform e s = .next t) (herr : s.status.err = true) :
    KeepsFault s t ∨ (∃ i, actionOf e = .transaction i ∧ clearsError i = true) ∨
      (∃ i, actionOf e = .transaction i ∧ isSoftReset i = true) ∨ actionOf e = .reset := by
  obtain ⟨i, ha, hi⟩ | ⟨ha, -⟩ | ⟨-, hu⟩ | ⟨-, rfl⟩ := perform_cases h
  · cases hclear : clearsError i with
    | true => exact .inr (.inl ⟨i, ha, hclear⟩)
    | false =>
      cases hsoft : isSoftReset i with
      | true => exact .inr (.inr (.inl ⟨i, ha, hsoft⟩))
      | false => exact .inl (exec_keepsFault hclear hsoft hi herr)
  · exact .inr (.inr (.inr ha))
  · exact .inl (unitStep_keepsFault hu)
  · exact .inl ⟨rfl, rfl⟩

/-- A recorded fault outlives every step but one whose input clears it or resets the block (R202). -/
theorem step_keepsFault (h : step s = .next t) (herr : s.status.err = true) :
    KeepsFault s t ∨ nextInstr clearsError s ∨ nextResets s := by
  obtain ⟨-, hs⟩ | ⟨e, rest, hin, hs⟩ := step_cases s
  · exact .inl (unitStep_keepsFault (hs.symm.trans h))
  · obtain hkeep | ⟨i, ha, hclear⟩ | ⟨i, ha, hsoft⟩ | ha := perform_keepsFault (hs.symm.trans h) herr
    · exact .inl hkeep
    · exact .inr (.inl ⟨e, rest, i, hin, ha, hclear⟩)
    · exact .inr (.inr (.inl ⟨e, rest, i, hin, ha, hsoft⟩))
    · exact .inr (.inr (.inr ⟨e, rest, hin, ha⟩))

end

/-! ### The statements about the reject -/

/-- Settles O9: such a word does not decode, and an illegal word is rejected with cause 1. -/
theorem illegalWordIsRejected : Obligations.IllegalWordIsRejected := fun _ _ herr hbusy hv =>
  congrArg Host.Outcome.next (submitCommand_of_illegal herr hbusy (exists_decodeCommand_eq_error_of_fields hv))

/-- Settles O21: the two commands that need MOD are rejected, the two that do not are accepted. -/
theorem zeroModulusIsRejected : Obligations.ZeroModulusIsRejected := by
  intro s herr hbusy hm
  refine ⟨exec_instrOfCommand_of_modulus_eq_zero (c := .mulmod) herr hbusy rfl hm,
    exec_instrOfCommand_of_modulus_eq_zero (c := .powmod) herr hbusy rfl hm, ?_, ?_⟩
  · exact ⟨_, exec_instrOfCommand_eq_accept (c := .isqrt) herr hbusy nofun, herr, rfl⟩
  · exact ⟨_, exec_instrOfCommand_eq_accept (c := .isprime) herr hbusy nofun, herr, rfl⟩

/-- Settles O23: only a submission sets ERR, and one that does is a reject. -/
theorem rejectsArePrecise : Obligations.RejectsArePrecise := by
  intro i s t h herr hset
  cases hi : submittedWord i with
  | none => exact absurd ((exec_err_of_submittedWord_eq_none hi h herr).symm.trans hset) Bool.false_ne_true
  | some v =>
    cases (exec_of_submittedWord hi s).symm.trans h
    obtain ⟨cause, hcause, hs⟩ := submitCommand_eq_reject herr hset
    rw [hs]
    exact ⟨⟨v, rfl⟩, hcause, rfl⟩

/-- Settles O24: a submission is dropped, a step keeps the fault unless it clears it, and the completion is `complete`. -/
theorem faultsDoNotNest : Obligations.FaultsDoNotNest := by
  intro s herr
  refine ⟨fun i v hi => ?_, fun t h => ?_, fun v hseq => ⟨_, unitStep_ready hseq, rfl, rfl, herr, rfl⟩⟩
  · rw [exec_of_submittedWord hi, submitCommand_of_err herr]
  · exact (step_keepsFault h herr).imp_left fun ⟨herr', hcause⟩ => ⟨herr'.trans herr, hcause⟩

/-- The return from a fault, `WR STATUS, 4`, clears ERR and CAUSE alone (R201). -/
theorem exec_wrStatus_four (s : State) :
    exec (.wrStatus 4#64) s = .next { s with status := { s.status with err := false, cause := .none } } := rfl

/-- Settles O25: `WR STATUS, 4` and both resets clear the fault, and an ISQRT is then accepted. -/
theorem clearingTheErrorReopensTheBlock : Obligations.ClearingTheErrorReopensTheBlock := by
  intro s
  refine ⟨exec_wrStatus_four s, ⟨_, exec_wrCtrl_of_bit2 (by decide) s, rfl, rfl⟩, ⟨_, rfl, rfl, rfl⟩, fun hbusy => ?_⟩
  exact ⟨_, _, exec_wrStatus_four s, exec_instrOfCommand_eq_accept (c := .isqrt) rfl hbusy nofun, rfl, rfl, rfl⟩

end Sys2Proof.Machine
end

section
/-! SUPPORT. A reject does not disturb the running operation (60_exceptions.md R194): the unit does not see ERR and CAUSE,
so each part of its step commutes with recording them. -/
namespace Sys2Proof.Machine

/-- The outcome with `f` applied to its next state; a stop stays that stop. -/
def mapNext (f : State → State) : Result → Result
  | .next s => .next (f s)
  | .fault r => .fault r
  | .refused r => .refused r

section
variable (cause : Cause) (s : State)

theorem mulmodReturn_reject (use : MulUse) : mulmodReturn use (reject cause s) = reject cause (mulmodReturn use s) := by
  cases use <;> rfl

theorem isqrtReturn_reject (use : SqrtUse) : isqrtReturn use (reject cause s) = reject cause (isqrtReturn use s) := by
  cases use <;> rfl

theorem mulmodEnter_reject (use : MulUse) (a b : Word) :
    mulmodEnter use a b (reject cause s) = mapNext (reject cause) (mulmodEnter use a b s) := by
  simp only [mulmodEnter, apply_ite (mapNext _)]
  rfl

theorem mulmodLoopStep_reject (use : MulUse) :
    mulmodLoopStep use (reject cause s) = mapNext (reject cause) (mulmodLoopStep use s) := by
  simp only [mulmodLoopStep, mulmodReturn_reject, apply_ite (mapNext _)]
  rfl

theorem powmodLoopStep_reject : powmodLoopStep (reject cause s) = mapNext (reject cause) (powmodLoopStep s) := by
  simp only [powmodLoopStep, reject_w, mulmodEnter_reject, apply_ite (mapNext _)]
  rfl

theorem powmodShiftStep_reject : powmodShiftStep (reject cause s) = mapNext (reject cause) (powmodShiftStep s) := by
  by_cases hpe : (powmodShift s.w).pe = 0#64
  · rw [powmodShiftStep_of_pe_eq_zero hpe]
    exact powmodShiftStep_of_pe_eq_zero hpe
  · rw [powmodShiftStep_of_pe_ne_zero hpe, ← mulmodEnter_reject]
    exact powmodShiftStep_of_pe_ne_zero hpe

theorem isqrtLoopStep_reject (use : SqrtUse) :
    isqrtLoopStep use (reject cause s) = mapNext (reject cause) (isqrtLoopStep use s) := by
  simp only [isqrtLoopStep, isqrtReturn_reject, apply_ite (mapNext _)]
  rfl

theorem isprimeStart_reject : isprimeStart (reject cause s) = mapNext (reject cause) (isprimeStart s) := by
  simp only [isprimeStart, apply_ite (mapNext _)]
  rfl

theorem isprimeLoopStep_reject : isprimeLoopStep (reject cause s) = mapNext (reject cause) (isprimeLoopStep s) := by
  simp only [isprimeLoopStep, apply_ite (mapNext _)]
  rfl

theorem startOperation_reject : startOperation (reject cause s) = mapNext (reject cause) (startOperation s) := by
  unfold startOperation
  rw [reject_w]
  split
  · exact mulmodEnter_reject cause s _ _ _
  · rfl
  · rfl
  · exact isprimeStart_reject cause s
  · rfl

/-- A step of the unit is the same with a reject recorded before it as after it, the completion included (R194). -/
theorem unitStep_reject : unitStep (reject cause s) = mapNext (reject cause) (unitStep s) := by
  unfold unitStep
  rw [reject_seq]
  split
  · rfl
  · exact startOperation_reject cause s
  · exact mulmodLoopStep_reject cause s _
  · exact powmodLoopStep_reject cause s
  · exact powmodShiftStep_reject cause s
  · exact isqrtLoopStep_reject cause s _
  · exact isprimeLoopStep_reject cause s
  · rfl

end

/-- Settles O22: the write is a reject, and the unit's step commutes with a reject. -/
theorem commandWhileBusyDoesNotDisturb : Obligations.CommandWhileBusyDoesNotDisturb := by
  refine ⟨fun v s herr hbusy => congrArg Host.Outcome.next (submitCommand_of_busy herr hbusy v), fun s t h => ?_⟩
  exact (unitStep_reject .cmdWhileBusy s).trans (congrArg (mapNext _) h)

end Sys2Proof.Machine
end

section
/-! SUPPORT. The interrupt output (10_state.md R29; 60_exceptions.md R198, R199). -/
namespace Sys2Proof.Machine

/-- A write of STATUS drops the sources it clears (R199). -/
theorem irq_writeStatus (v : Word) (s : State) :
    irq (writeStatus v s) = ((s.status.done && !v.getLsbD 1 && s.ctrl.ienDone) ||
      (s.status.err && !v.getLsbD 2 && s.ctrl.ienErr)) := by
  rw [irq, writeStatus_status, writeStatus_ctrl, clearFlags_eq]

/-- Only an acceptance raises BUSY, and it finds the block without a fault (R152, R153). -/
theorem submitCommand_eq_accept_of_busy {v : Word} {s : State} (hbusy : s.status.busy = false)
    (hset : (submitCommand v s).status.busy = true) : s.status.err = false ∧ submitCommand v s = accept v s := by
  obtain ⟨-, hs⟩ | ⟨-, -, hs⟩ | ⟨-, -, -, hs⟩ | ⟨c, -, -, -, -, -, hs⟩ | ⟨c, herr, -, -, -, hs⟩ := submitCommand_cases v s
  case inr.inr.inr.inr => exact ⟨herr, hs⟩
  all_goals
    rw [hs] at hset
    exact absurd (hbusy.symm.trans hset) Bool.false_ne_true

/-- An acceptance clears DONE and finds no fault, so no source is left pending (R199). -/
theorem irq_accept {s : State} (herr : s.status.err = false) (v : Word) : irq (accept v s) = false := by
  simp [irq, herr]

/-- Settles O30: `irq` has no memory of its own, so it is read off the flags and enables each event leaves. -/
theorem interruptFollowsFlagsAndEnables : Obligations.InterruptFollowsFlagsAndEnables := by
  intro s
  refine ⟨rfl, fun v t h hv => ?_, fun v t h => ?_, fun i v t hi h hbusy hset => ?_, fun r t h => ?_, fun t h => ?_⟩
  · cases (exec_wrCtrl_of_not_bit2 hv s).symm.trans h
    rfl
  · cases h
    exact irq_writeStatus v s
  · cases (exec_of_submittedWord hi s).symm.trans h
    obtain ⟨herr, hs⟩ := submitCommand_eq_accept_of_busy hbusy hset
    rw [hs]
    exact irq_accept herr v
  · cases (exec_readInstr r s).symm.trans h
    rfl
  · cases h
    exact ⟨rfl, rfl⟩

end Sys2Proof.Machine
end

section
/-! SUPPORT. The soft reset and the hard reset (45_host_control.md R158; 70_reset_and_hazards.md R220, R221). -/
namespace Sys2Proof.Machine

/-- The hard reset is the reset of the block (R220). -/
theorem perform_hardReset (s : State) : perform .hardReset s = .next (resetBlock s) := rfl

/-- Settles O17: both resets are `resetBlock`, and a read of CTRL after it, SRST included, returns 0. -/
theorem softResetIsTheHardReset : Obligations.SoftResetIsTheHardReset := by
  intro v s hv
  have hreset : HoldsResetValues (resetBlock s) := holdsResetValues_resetBlock s
  exact ⟨resetBlock s, exec_wrCtrl_of_bit2 hv s, perform_hardReset s, hreset, regRead_of_holdsResetValues hreset .ctrl⟩

end Sys2Proof.Machine
end

section
/-! SUPPORT. The two round trips between instructions and their words (30_encoding.md R70 to R80): every instruction is a
command, a write or a read, and each of the three kinds has its word. -/
namespace Sys2Proof

/-! ### The words of the three kinds of instruction -/

theorem encode_instrOfCommand (c : Command) : encode (instrOfCommand c) = .cmdw (commandWord c) := by
  cases c <;> rfl

theorem encode_writeInstr (r : PortReg) (v : Word) : encode (writeInstr r v) = .port (portWord true r v) := by
  cases r <;> rfl

theorem encode_readInstr (r : PortReg) : encode (readInstr r) = .port (portWord false r 0#64) := by
  cases r <;> rfl

/-- Every instruction is a command, a write or a read (R71, R78). -/
theorem instr_cases (i : Instr) :
    (∃ c, i = instrOfCommand c) ∨ (∃ r v, i = writeInstr r v) ∨ ∃ r, i = readInstr r := by
  cases i with
  | mulmod => exact .inl ⟨.mulmod, rfl⟩
  | powmod => exact .inl ⟨.powmod, rfl⟩
  | isqrt => exact .inl ⟨.isqrt, rfl⟩
  | isprime => exact .inl ⟨.isprime, rfl⟩
  | wrOpa v => exact .inr (.inl ⟨.opa, v, rfl⟩)
  | wrOpb v => exact .inr (.inl ⟨.opb, v, rfl⟩)
  | wrMod v => exact .inr (.inl ⟨.mod, v, rfl⟩)
  | wrRes v => exact .inr (.inl ⟨.res, v, rfl⟩)
  | wrCmd v => exact .inr (.inl ⟨.cmd, v, rfl⟩)
  | wrStatus v => exact .inr (.inl ⟨.status, v, rfl⟩)
  | wrCtrl v => exact .inr (.inl ⟨.ctrl, v, rfl⟩)
  | wrR7 v => exact .inr (.inl ⟨.r7, v, rfl⟩)
  | rdOpa => exact .inr (.inr ⟨.opa, rfl⟩)
  | rdOpb => exact .inr (.inr ⟨.opb, rfl⟩)
  | rdMod => exact .inr (.inr ⟨.mod, rfl⟩)
  | rdRes => exact .inr (.inr ⟨.res, rfl⟩)
  | rdCmd => exact .inr (.inr ⟨.cmd, rfl⟩)
  | rdStatus => exact .inr (.inr ⟨.status, rfl⟩)
  | rdCtrl => exact .inr (.inr ⟨.ctrl, rfl⟩)
  | rdR7 => exact .inr (.inr ⟨.r7, rfl⟩)

/-! ### Decoding after encoding -/

theorem decode_commandWord (c : Command) : decode (.cmdw (commandWord c)) = .ok (instrOfCommand c) := by
  rw [decode, decodeCommand_commandWord]

/-- Settles O1: each of the three kinds of instruction has a word that decodes to it. -/
theorem decodeOfEncodeIsTheInstruction : Obligations.DecodeOfEncodeIsTheInstruction := by
  intro i _
  obtain ⟨c, rfl⟩ | ⟨r, v, rfl⟩ | ⟨r, rfl⟩ := instr_cases i
  · rw [encode_instrOfCommand, decode_commandWord]
  · rw [encode_writeInstr, decode_portWord_write]
  · rw [encode_readInstr, decode_portWord_read]

/-! ### Encoding after decoding -/

/-- The words of the first format that decode are those of the four commands (R77). -/
theorem decode_cmdw_eq_ok {w : BitVec 64} {i : Instr} (h : decode (.cmdw w) = .ok i) :
    ∃ c, w = commandWord c ∧ i = instrOfCommand c := by
  cases hd : decodeCommand w with
  | ok c =>
    simp only [decode, hd] at h
    cases h
    exact ⟨c, decodeCommand_eq_ok_iff.1 hd, rfl⟩
  | error e =>
    simp only [decode, hd] at h
    cases h

/-- A transaction word is its three fields, put together again (R75). -/
theorem portWord_fields (w : BitVec 68) : portWord (weField w) (portRegOfIndex (idxField w)) (dataField w) = w := by
  apply BitVec.eq_of_getLsbD_eq
  intro k hk
  rw [portWord_getLsbD, indexOfPortReg_portRegOfIndex, dataField, idxField, weField, BitVec.getLsbD_extractLsb',
    BitVec.getLsbD_extractLsb']
  split_ifs with hdata hidx
  · simp [hdata]
  · simp [hidx, show 64 + (k - 64) = k by omega]
  · obtain rfl : k = 67 := by omega
    simp

/-- A read that carries DATA is no word of the format (R75; log entry 10). -/
theorem decode_portWord_read_of_data {v : Word} (hv : v ≠ 0#64) (r : PortReg) :
    decode (.port (portWord false r v)) = .error .readCarriesData := by
  rw [decode, decodePort, weField_portWord, portWordWellFormed_portWord, if_neg Bool.false_ne_true, if_neg (by simp [hv])]

/-- The words of the second format that decode are the writes, and the reads that carry no DATA (R75, R80). -/
theorem decode_port_eq_ok {w : BitVec 68} {i : Instr} (h : decode (.port w) = .ok i) :
    ∃ r v, (w = portWord true r v ∧ i = writeInstr r v) ∨ (w = portWord false r 0#64 ∧ i = readInstr r) := by
  obtain ⟨we, r, v, rfl⟩ : ∃ we r v, w = portWord we r v := ⟨_, _, _, (portWord_fields w).symm⟩
  refine ⟨r, v, ?_⟩
  cases we with
  | true => exact .inl ⟨rfl, Except.ok.inj (h.symm.trans (decode_portWord_write r v))⟩
  | false =>
    by_cases hv : v = 0#64
    · subst hv
      exact .inr ⟨rfl, Except.ok.inj (h.symm.trans (decode_portWord_read r))⟩
    · cases h.symm.trans (decode_portWord_read_of_data hv r)

/-- Settles O2: a word that decodes is one of the words of the three kinds of instruction. -/
theorem encodeOfDecodeIsTheWord : Obligations.EncodeOfDecodeIsTheWord := by
  intro e i h
  cases e with
  | cmdw w =>
    obtain ⟨c, rfl, rfl⟩ := decode_cmdw_eq_ok h
    exact encode_instrOfCommand c
  | port w =>
    obtain ⟨r, v, ⟨rfl, rfl⟩ | ⟨rfl, rfl⟩⟩ := decode_port_eq_ok h
    · exact encode_writeInstr r v
    · exact encode_readInstr r

/-! ### Words written out -/

/-- Settles O4: the decoder, evaluated on eight words written out from the tables. -/
theorem writtenOutWordsDecode : Obligations.WrittenOutWordsDecode := by
  unfold Obligations.WrittenOutWordsDecode
  decide

end Sys2Proof
end

section
/-! SUPPORT. The whole invariant `Inv` along the machine's steps, and what it excludes: no step of the unit stops, so
a step of the machine stops only on an input that has no meaning (60_exceptions.md R203). -/
namespace Sys2Proof.Machine

section
variable {s t : State}

/-! ### What keeps the operation's invariant -/

/-- An acceptance starts the operation of its word, on a modulus that is not 0 where the command needs it (R153). -/
theorem operationInv_accept {v : Word} {c : Command} (hd : decodeCommand v = .ok c)
    (hm : needsModulus c = true → s.modulus ≠ 0#64) : OperationInv (accept v s) :=
  operationInv_of_position rfl (commandOfOpcode_of_decodeCommand hd) (fun hc => BitVec.toNat_pos_of_ne_zero (hm hc))
    trivial

/-- A submission leaves the running operation alone, or starts one (R196). -/
theorem OperationInv.submitCommand (h : OperationInv s) (v : Word) : OperationInv (submitCommand v s) := by
  obtain ⟨-, hs⟩ | ⟨-, -, hs⟩ | ⟨-, -, -, hs⟩ | ⟨c, -, -, -, -, -, hs⟩ | ⟨c, -, -, hd, hm, hs⟩ := submitCommand_cases v s
  case inr.inr.inr.inr => exact hs ▸ operationInv_accept hd hm
  all_goals
    rw [hs]
    exact h.congr rfl rfl

theorem OperationInv.writeCtrl (h : OperationInv s) (v : Word) : OperationInv (writeCtrl v s) := by
  obtain ⟨-, hs⟩ | ⟨-, hs⟩ := writeCtrl_cases v s
  all_goals rw [hs]
  · exact trivial
  · exact h.congr rfl rfl

theorem OperationInv.exec {i : Instr} (h : OperationInv s) (hi : exec i s = .next t) : OperationInv t := by
  obtain ⟨u, hu, hcases⟩ := exec_cases i s
  cases hu.symm.trans hi
  obtain ⟨v, rfl⟩ | ⟨v, rfl⟩ | ⟨v, rfl⟩ | ⟨v, rfl⟩ | rfl | ⟨v, rfl⟩ | ⟨v, rfl⟩ | ⟨v, rfl⟩ := hcases
  case inr.inr.inr.inr.inr.inl => exact h.submitCommand v
  case inr.inr.inr.inr.inr.inr.inr => exact h.writeCtrl v
  all_goals exact h.congr rfl rfl

theorem OperationInv.perform {e : Event} (h : OperationInv s) (he : perform e s = .next t) : OperationInv t := by
  obtain ⟨i, -, hi⟩ | ⟨-, rfl⟩ | ⟨-, hu⟩ | ⟨-, rfl⟩ := perform_cases he
  · exact h.exec hi
  · exact trivial
  · exact h.unitStep hu
  · exact h

theorem OperationInv.step (h : OperationInv s) (hs : step s = .next t) : OperationInv t := by
  obtain ⟨-, hu⟩ | ⟨e, rest, -, he⟩ := step_cases s
  · exact h.unitStep (hu.symm.trans hs)
  · have hrest : OperationInv { s with inputs := rest } := h.congr rfl rfl
    exact hrest.perform (he.symm.trans hs)

/-! ### No stop -/

/-- While IDLE a step of the unit does nothing (R155; log entry 3). -/
theorem unitStep_of_idle (hidle : s.seq = .idle) : unitStep s = .next s := by
  rw [unitStep, hidle]

/-- From a state with the invariant the unit steps on (R203). -/
theorem OperationInv.exists_unitStep (h : OperationInv s) : ∃ t, Machine.unitStep s = .next t := by
  cases hseq : s.seq with
  | idle => exact ⟨s, unitStep_of_idle hseq⟩
  | run pos =>
    by_cases hready : ∃ v, pos = .ready v
    · obtain ⟨v, rfl⟩ := hready
      exact ⟨_, unitStep_ready hseq⟩
    · obtain ⟨c, hopc, hm, hpos⟩ := h.position hseq
      obtain ⟨t, ht, -⟩ := hpos.stepsOnCourse hopc hm (fun v hv => hready ⟨v, hv⟩) s
      rw [microStep_w_of_seq hseq] at ht
      exact ⟨t, ht⟩

/-- Where the unit would step on, an event answers a next state or is refused for what it is (R203). -/
theorem perform_next_or_refused (h : ∃ t, unitStep s = .next t) (e : Event) :
    (∃ t, perform e s = .next t) ∨ ∃ r, actionOf e = .refuse r ∧ perform e s = .refused r := by
  unfold perform
  cases actionOf e with
  | transaction i =>
    obtain ⟨t, ht, -⟩ := exec_cases i s
    exact .inl ⟨t, ht⟩
  | reset => exact .inl ⟨_, rfl⟩
  | unit => exact .inl h
  | nothing => exact .inl ⟨_, rfl⟩
  | refuse r => exact .inr ⟨r, rfl, rfl⟩

/-- From a state with the invariant a step answers a next state, or its input is refused for what it is (R203). -/
theorem OperationInv.step_next_or_refused (h : OperationInv s) :
    (∃ t, Machine.step s = .next t) ∨
      ∃ e rest r, s.inputs = e :: rest ∧ actionOf e = .refuse r ∧ Machine.step s = .refused r := by
  obtain ⟨-, hs⟩ | ⟨e, rest, hin, hs⟩ := step_cases s
  all_goals rw [hs]
  · exact .inl h.exists_unitStep
  · have hrest : OperationInv { s with inputs := rest } := h.congr rfl rfl
    obtain hnext | ⟨r, ha, hr⟩ := perform_next_or_refused hrest.exists_unitStep e
    · exact .inl hnext
    · exact .inr ⟨e, rest, r, hin, ha, hr⟩

end

/-- Settles O42: both halves of the invariant are kept, the port's and the operation's. -/
theorem operationInvariantIsKept : Obligations.OperationInvariantIsKept :=
  fun _ _ ⟨hport, hop⟩ hs => ⟨hport.step hs, hop.step hs⟩

/-- Settles O43: the reset state is idle, and meets the port's invariant. -/
theorem resetSatisfiesTheInvariant : Obligations.ResetSatisfiesTheInvariant :=
  ⟨portInv_of_reset_values rfl rfl rfl, trivial⟩

/-- Settles O44: the invariant lets the unit step on, and the unit keeps ERR and CAUSE. -/
theorem noStepFaults : Obligations.NoStepFaults := by
  rintro s ⟨-, hop⟩
  obtain ⟨t, ht⟩ := hop.exists_unitStep
  refine ⟨⟨t, ht, unitStep_keepsFault ht⟩, fun r hr => ?_, fun r hr => ?_⟩
  · obtain ⟨u, hu⟩ | ⟨e, rest, r', -, -, hs⟩ := hop.step_next_or_refused
    · cases hu.symm.trans hr
    · cases hs.symm.trans hr
  · obtain ⟨u, hu⟩ | ⟨e, rest, r', hin, ha, hs⟩ := hop.step_next_or_refused
    · cases hu.symm.trans hr
    · cases hs.symm.trans hr
      exact ⟨e, rest, hin, ha⟩

end Sys2Proof.Machine
end

section
/-! SUPPORT. How many steps of the unit an operation takes at most: from its acceptance, by command (R113, R123, R131, R144),
and from wherever it stands while the host is silent (45_host_control.md R155). -/
namespace Sys2Proof.Machine

/-! ### From the acceptance -/

section
variable {c : Command} {s : State}

/-- An accepted MULMOD has its product ready after the load, a pass per bit of the smaller operand, and the return (R113). -/
theorem unitReaches_ready_of_accept_mulmod (hm : s.modulus ≠ 0#64) :
    ∃ v, UnitReaches (bitlen (min s.opa.toNat s.opb.toNat) + 2) (accept (commandWord .mulmod) s)
      (microStep v (.ready v.acc) (accept (commandWord .mulmod) s)) := by
  have hrest := performAll_mulmod (use := .command) s.opa s.opb (w := snapshot (commandWord .mulmod) s) hm
    (accept (commandWord .mulmod) s)
  exact ⟨_, _, le_rfl, (performAll_replicate_unitStep_succ (unitStep_accept_mulmod hm) _).trans hrest⟩

/-- An accepted command has its result ready one step before its bound (R113, R123, R131, R144). -/
theorem unitReaches_ready_of_accept (hm : needsModulus c = true → s.modulus ≠ 0#64) :
    ∃ n v r, n + 1 = passBound c s.opa.toNat s.opb.toNat ∧
      UnitReaches n (accept (commandWord c) s) (microStep v (.ready r) (accept (commandWord c) s)) := by
  cases c with
  | mulmod =>
    obtain ⟨v, hrun⟩ := unitReaches_ready_of_accept_mulmod (hm rfl)
    exact ⟨_, v, v.acc, rfl, hrun⟩
  | powmod =>
    obtain ⟨v, -, hrun⟩ := unitReaches_ready_of_accept_powmod (hm rfl)
    exact ⟨_, v, v.pr, rfl, hrun⟩
  | isqrt =>
    obtain ⟨v, -, hrun⟩ := unitReaches_ready_of_accept_isqrt s
    exact ⟨_, v, v.sq, rfl, hrun⟩
  | isprime =>
    obtain ⟨v, r, -, hrun⟩ := unitReaches_ready_of_accept_isprime 0 0 s
    exact ⟨_, v, r, by simp only [passBound]; omega, hrun⟩

end

/-- Settles O56: the acceptance, the way to the result, and the completion one step later. -/
theorem commandsCompleteWithinTheirPassBounds : Obligations.CommandsCompleteWithinTheirPassBounds := by
  intro c s herr hbusy hm
  obtain ⟨n, v, r, hbound, k, hk, hrun⟩ := unitReaches_ready_of_accept hm
  exact ⟨_, k + 1, _, exec_wrCmd_commandWord herr hbusy hm, hbound ▸ Nat.succ_le_succ hk, run_complete_of_ready hrun,
    rfl, rfl, rfl⟩

/-! ### From a position inside an operation -/

section
variable {c : Command} {w : Working} {n : Nat}

/-- A mulmod returns within a step per bit of K that is left, and one for the return, whoever runs it (R111, R113). -/
theorem unitReaches_return_of_mulLoop {use : MulUse} (h : PositionInv c w (.mulLoop use)) (hn : w.k.toNat < 2 ^ n)
    (s : State) :
    ∃ v, v.k = 0#64 ∧ v.m = w.m ∧ PositionInv c v (.mulLoop use) ∧
      UnitReaches (n + 1) (microStep w (.mulLoop use) s) (mulmodReturn use (microStep v (.mulLoop use) s)) := by
  induction n generalizing w with
  | zero =>
    have hk : w.k = 0#64 := BitVec.eq_of_toNat_eq (Nat.lt_one_iff.1 hn)
    exact ⟨w, hk, rfl, h, unitReaches_of_unitStep (unitStep_mulLoop_of_k_eq_zero rfl hk)⟩
  | succ n ih =>
    by_cases hk : w.k = 0#64
    · exact ⟨w, hk, rfl, h, (unitReaches_of_unitStep (unitStep_mulLoop_of_k_eq_zero rfl hk)).mono (by omega)⟩
    · have hshift : (mulmodPass w.m w).k.toNat < 2 ^ n := by
        rw [mulmodPass_k, BitVec.toNat_ushiftRight, Nat.shiftRight_eq_div_pow]
        omega
      obtain ⟨v, hv, hvm, hpos, hrest⟩ := ih (h.mulmodPass hk) hshift
      have hpass := unitReaches_of_unitStep (unitStep_mulLoop_of_k_ne_zero (use := use) (s := microStep w (.mulLoop use) s)
        rfl h.modulus_ne_zero hk)
      exact ⟨v, hv, hvm.trans (mulmodPass_m ..), hpos, (hpass.trans hrest).mono (by omega)⟩

/-- Inside a pass of POWMOD: the rest of the pass, and the passes of a whole exponent (R123). -/
theorem PowmodMultiplied.unitReaches_ready {base e : Nat} (h : PowmodMultiplied base e w.m.toNat w) (hm : w.m ≠ 0#64)
    (s : State) : ∃ v r, UnitReaches 8450 (microStep w .powShift s) (microStep v (.ready r) s) := by
  by_cases hpe : (powmodShift w).pe = 0#64
  · obtain ⟨v, -, hrest⟩ := (h.head hpe).unitReaches_ready (w := powmodShift w) hm (powmodShift w).pe.isLt s
    exact ⟨v, v.pr, ((unitReaches_of_unitStep (unitStep_powShift_of_pe_eq_zero hpe)).trans hrest).mono (by decide)⟩
  · obtain ⟨x, hxm, -, hhead, hfirst⟩ := h.unitReaches_powLoop hm hpe s
    rw [← hxm] at hm hhead
    obtain ⟨v, -, hrest⟩ := hhead.unitReaches_ready hm x.pe.isLt s
    exact ⟨v, v.pr, hfirst.trans hrest⟩

/-- The trial loop of ISPRIME passes at most the odd numbers from 3 to the largest bound (R144). -/
theorem IsprimeHead.unitReaches_ready_of_any_bound (h : IsprimeHead w.a.toNat w) (s : State) :
    ∃ v r, UnitReaches (2 ^ 31) (microStep w .primeLoop s) (microStep v (.ready r) s) := by
  have hn : w.lim.toNat < w.d.toNat + 2 * (2 ^ 31 - 1) := by
    have hlim : w.lim.toNat < 2 ^ 32 := w.lim.isLt
    obtain ⟨-, -, -, hd3, -, -, -⟩ := h
    omega
  obtain ⟨v, r, -, hrun⟩ := h.unitReaches_ready hn 0 0 s
  exact ⟨v, r, hrun⟩

theorem PositionInv.unitReaches_ready_of_mulLoop {use : MulUse} (h : PositionInv c w (.mulLoop use)) (s : State) :
    ∃ v r, UnitReaches 8515 (microStep w (.mulLoop use) s) (microStep v (.ready r) s) := by
  obtain ⟨x, hk, -, hpos, hfirst⟩ := unitReaches_return_of_mulLoop h w.k.isLt s
  have hm : x.m ≠ 0#64 := hpos.modulus_ne_zero
  obtain ⟨pos, hseq, hret⟩ := PositionInv.mulmodReturn (s := microStep x (.mulLoop use) s) hpos hk
  cases use with
  | command => exact ⟨x, x.acc, hfirst.mono (k := 8515) (by decide)⟩
  | powMultiply =>
    cases hseq
    obtain ⟨v, r, hrest⟩ := hret.2.unitReaches_ready (w := { x with pr := x.acc }) hm s
    exact ⟨v, r, hfirst.trans hrest⟩
  | powSquare =>
    cases hseq
    obtain ⟨v, -, hrest⟩ := hret.2.unitReaches_ready (w := { x with pb := x.acc }) hm x.pe.isLt s
    exact ⟨v, v.pr, (hfirst.trans hrest).mono (k := 8515) (by decide)⟩

theorem PositionInv.unitReaches_ready_of_sqrtLoop {use : SqrtUse} (h : PositionInv c w (.sqrtLoop use)) (s : State) :
    ∃ v r, UnitReaches (2 ^ 31 + 33) (microStep w (.sqrtLoop use) s) (microStep v (.ready r) s) := by
  cases use with
  | command =>
    obtain ⟨-, hroot⟩ := h
    obtain ⟨n, hn, hbefore⟩ := isqrtHead_iff.1 hroot
    obtain ⟨x, -, -, hfirst⟩ := hbefore.unitReaches_isqrtReturn (use := .command) (s := s) w.a.isLt hn
    exact ⟨x, x.sq, hfirst.mono (by omega)⟩
  | primeBound =>
    obtain ⟨-, h3, hodd, hroot⟩ := h
    obtain ⟨n, hn, hbefore⟩ := isqrtHead_iff.1 hroot
    obtain ⟨x, ⟨hxa, -⟩, hsq, hfirst⟩ := hbefore.unitReaches_isqrtReturn (use := .primeBound) (s := s) w.a.isLt hn
    have hhead : IsprimeHead (isprimeBound x).a.toNat (isprimeBound x) :=
      (congrArg BitVec.toNat hxa : (isprimeBound x).a.toNat = w.a.toNat) ▸ isprimeHead_isprimeBound w.a.isLt h3 hodd hsq
    obtain ⟨v, r, hrest⟩ := hhead.unitReaches_ready_of_any_bound s
    exact ⟨v, r, (hfirst.trans hrest).mono (by omega)⟩

/-- An operation that has begun has its result ready within 2^31 + 33 steps, ISPRIME's root and trial loop being the
longest way (R155). -/
theorem PositionInv.unitReaches_ready {pos : MicroPos} (h : PositionInv c w pos)
    (hm : needsModulus c = true → 0 < w.m.toNat) (hpos : pos ≠ .load) (s : State) :
    ∃ v r, UnitReaches (2 ^ 31 + 33) (microStep w pos s) (microStep v (.ready r) s) := by
  cases pos with
  | load => exact absurd rfl hpos
  | mulLoop use =>
    obtain ⟨v, r, hrun⟩ := h.unitReaches_ready_of_mulLoop s
    exact ⟨v, r, hrun.mono (by decide)⟩
  | powLoop =>
    obtain ⟨rfl, hhead⟩ := h
    obtain ⟨v, -, hrun⟩ := hhead.unitReaches_ready (word_ne_zero_of_toNat_pos (hm rfl)) w.pe.isLt s
    exact ⟨v, v.pr, hrun.mono (by decide)⟩
  | powShift =>
    obtain ⟨rfl, hmul⟩ := h
    obtain ⟨v, r, hrun⟩ := hmul.unitReaches_ready (word_ne_zero_of_toNat_pos (hm rfl)) s
    exact ⟨v, r, hrun.mono (by decide)⟩
  | sqrtLoop use => exact h.unitReaches_ready_of_sqrtLoop s
  | primeLoop =>
    obtain ⟨v, r, hrun⟩ := h.2.unitReaches_ready_of_any_bound s
    exact ⟨v, r, hrun.mono (by decide)⟩
  | ready v => exact ⟨w, v, 0, Nat.zero_le _, rfl⟩

/-- The first step of an operation leaves the position where none of it has begun. -/
theorem startOperation_seq_ne_load {s t : State} (h : startOperation s = .next t) : t.seq ≠ .run .load := by
  unfold startOperation at h
  split at h
  · obtain ⟨-, rfl⟩ := mulmodEnter_cases h
    exact nofun
  · cases h; exact nofun
  · cases h; exact nofun
  · obtain ⟨r, -, hs⟩ | ⟨-, -, hs⟩ := isprimeStart_cases 0 0 s
    all_goals
      cases hs.symm.trans h
      exact nofun
  · cases h

/-- An operation that has not begun has its result ready within one step more. -/
theorem unitReaches_ready_of_load (hopc : commandOfOpcode w.opc = some c) (hm : needsModulus c = true → 0 < w.m.toNat)
    (s : State) : ∃ v r, UnitReaches (2 ^ 31 + 34) (microStep w .load s) (microStep v (.ready r) s) := by
  obtain ⟨t, ht, pos, hseq, hpos⟩ := stepsOnCourse_load hopc hm s
  have hload : t.seq ≠ .run .load := startOperation_seq_ne_load (s := microStep w .load s) ht
  obtain ⟨hidle, -⟩ | ⟨-, w', pos', ⟨-, -, hwm, -⟩, rfl⟩ | ⟨v, hready, -⟩ := unitStep_cases ht
  · cases hidle
  · cases hseq
    have hnext : pos ≠ .load := fun h => hload (congrArg Seq.run h)
    obtain ⟨v, r, hrest⟩ := hpos.unitReaches_ready (w := w') (fun hc => hwm ▸ hm hc) hnext s
    exact ⟨v, r, ((unitReaches_of_unitStep ht).trans hrest).mono (by decide)⟩
  · cases hready

end

/-! ### While the host is silent -/

section
variable {s t : State}

theorem unitStep_inputs (h : unitStep s = .next t) : t.inputs = s.inputs := by
  obtain ⟨-, rfl⟩ | ⟨-, w, pos, -, rfl⟩ | ⟨v, -, rfl⟩ := unitStep_cases h
  all_goals rfl

/-- With no input left the machine's step is the unit's (R155; log entry 2). -/
theorem step_of_inputs_eq_nil (hin : s.inputs = []) : step s = unitStep s := by
  rw [step, takeNext, hin]

/-- A run of the unit begins with one of its steps. -/
theorem performAll_replicate_unitStep_succ_eq_next {n : Nat} {u : State}
    (h : performAll (.replicate (n + 1) .unitStep) s = .next u) :
    ∃ t, unitStep s = .next t ∧ performAll (.replicate n .unitStep) t = .next u := by
  cases hs : unitStep s with
  | next t => exact ⟨t, rfl, (performAll_replicate_unitStep_succ hs n).symm.trans h⟩
  | fault r => simp [List.replicate_succ, performAll, perform, actionOf, hs] at h
  | refused r => simp [List.replicate_succ, performAll, perform, actionOf, hs] at h

/-- With no input left a run of the machine is a run of the unit. -/
theorem run_of_inputs_eq_nil {n : Nat} {u : State} (hin : s.inputs = [])
    (h : performAll (.replicate n .unitStep) s = .next u) : Host.Core.run Sys2Proof.core n s = .next u := by
  induction n generalizing s with
  | zero => cases h; rfl
  | succ n ih =>
    obtain ⟨t, hs, hrest⟩ := performAll_replicate_unitStep_succ_eq_next h
    exact (run_succ_of_step (M := Sys2Proof.core) ((step_of_inputs_eq_nil hin).trans hs) n).trans
      (ih ((unitStep_inputs hs).trans hin) hrest)

/-- A running operation has its result ready within 2^31 + 34 steps of the unit (R155). -/
theorem OperationInv.unitReaches_ready (h : OperationInv s) (hrun : s.seq ≠ .idle) :
    ∃ v r, UnitReaches (2 ^ 31 + 34) s (microStep v (.ready r) s) := by
  cases hseq : s.seq with
  | idle => exact absurd hseq hrun
  | run pos =>
    obtain ⟨c, hopc, hm, hpos⟩ := h.position hseq
    rw [← microStep_w_of_seq hseq]
    by_cases hload : pos = .load
    · subst hload
      exact unitReaches_ready_of_load hopc hm s
    · obtain ⟨v, r, hreach⟩ := hpos.unitReaches_ready hm hload s
      exact ⟨v, r, hreach.mono (by decide)⟩

end

/-- Settles O57: the way to the result from wherever the operation stands, and the completion. -/
theorem everyOperationCompletes : Obligations.EveryOperationCompletes := by
  rintro s ⟨-, hop⟩ hin hrun
  obtain ⟨v, r, k, hk, hreach⟩ := hop.unitReaches_ready hrun
  have hdone := performAll_replicate_unitStep_succ' hreach (unitStep_ready rfl)
  exact ⟨k + 1, _, Nat.succ_le_succ hk, run_of_inputs_eq_nil hin hdone, rfl, rfl⟩

end Sys2Proof.Machine
end

section
/-! SUPPORT. The result of a command is a function of the operands it reads (10_state.md R34; 20_memory.md R59). -/
namespace Sys2Proof.Machine

/-- Operands on which a command gives the same result: ISQRT and ISPRIME read OPA alone (R34). -/
def SameOperands (c : Command) (a b m a' b' m' : Nat) : Prop :=
  a = a' ∧ (needsModulus c = true → b = b' ∧ m = m')

/-- The result law determines the result (R112, R122, R132, R142). -/
theorem IsResult.unique {c : Command} {a b m r a' b' m' r' : Nat} (hsame : SameOperands c a b m a' b' m')
    (h : IsResult c a b m r) (h' : IsResult c a' b' m' r') : r = r' := by
  obtain ⟨rfl, hbm⟩ := hsame
  cases c with
  | mulmod =>
    obtain ⟨rfl, rfl⟩ := hbm rfl
    exact h.trans h'.symm
  | powmod =>
    obtain ⟨rfl, rfl⟩ := hbm rfl
    exact h.trans h'.symm
  | isqrt => exact (Nat.eq_sqrt.2 h).trans (Nat.eq_sqrt.2 h').symm
  | isprime =>
    by_cases hp : PrimeNumber a
    · exact (h.1 hp).trans (h'.1 hp).symm
    · exact (h.2 hp).trans (h'.2 hp).symm

/-- A command written in the idle, fault-free state has its function's value in RES once BUSY is 0 again, whatever quiet
events follow (R162). -/
theorem isResult_res_of_call {c : Command} {s t u : State} {es : List Event} (herr : s.status.err = false)
    (hbusy : s.status.busy = false) (hm : needsModulus c = true → s.modulus ≠ 0#64)
    (hacc : exec (.wrCmd (commandWord c)) s = .next t) (hq : ∀ e ∈ es, quietEvent e = true)
    (hrun : performAll es t = .next u) (hdone : u.status.busy = false) :
    IsResult c s.opa.toNat s.opb.toNat s.modulus.toNat u.res.toNat := by
  cases (exec_wrCmd_commandWord herr hbusy hm).symm.trans hacc
  have hinv : CallInv c s.opa s.opb s.modulus u := (callInv_accept herr hm).performAll hq hrun
  exact (hinv.done hdone).result

/-- Settles O59: both runs end with the function's value, and the operands determine it. -/
theorem resultDependsOnlyOnTheOperands : Obligations.ResultDependsOnlyOnTheOperands := by
  intro c s₁ s₂ t₁ t₂ u₁ u₂ es₁ es₂ herr₁ hbusy₁ herr₂ hbusy₂ hopa hops hacc₁ hacc₂ hq₁ hq₂ hrun₁ hrun₂ hdone₁ hdone₂
  have hm₁ : needsModulus c = true → s₁.modulus ≠ 0#64 := fun hc => (hops hc).2.2
  have hm₂ : needsModulus c = true → s₂.modulus ≠ 0#64 := fun hc => (hops hc).2.1 ▸ hm₁ hc
  have hsame : SameOperands c s₁.opa.toNat s₁.opb.toNat s₁.modulus.toNat s₂.opa.toNat s₂.opb.toNat s₂.modulus.toNat := by
    refine ⟨congrArg BitVec.toNat hopa, fun hc => ?_⟩
    obtain ⟨hopb, hmod, -⟩ := hops hc
    exact ⟨congrArg BitVec.toNat hopb, congrArg BitVec.toNat hmod⟩
  have hres₁ := isResult_res_of_call herr₁ hbusy₁ hm₁ hacc₁ hq₁ hrun₁ hdone₁
  have hres₂ := isResult_res_of_call herr₂ hbusy₂ hm₂ hacc₂ hq₂ hrun₂ hdone₂
  exact BitVec.eq_of_toNat_eq (hres₁.unique hsame hres₂)

end Sys2Proof.Machine
end

section
/-! SUPPORT. The restoring divider (40_datapath_primitives.md R98): its partial remainder is the remainder of the bits of
the dividend taken so far. -/
namespace Sys2Proof.Machine

section
variable {x d rm : Nat}

/-- An iteration takes the remainder of the partial remainder with the next bit behind it (R98). -/
theorem restoringStep_eq_mod (bit : Bool) (h : rm < d) : restoringStep d bit rm = (2 * rm + bit.toNat) % d := by
  have hbit : bit.toNat ≤ 1 := Bool.toNat_le bit
  have hstep : restoringStep d bit rm = if d ≤ 2 * rm + bit.toNat then 2 * rm + bit.toNat - d else 2 * rm + bit.toNat :=
    rfl
  rw [hstep]
  split
  case isTrue hle => rw [Nat.mod_eq_sub_mod hle, Nat.mod_eq_of_lt (by omega)]
  case isFalse hlt => rw [Nat.mod_eq_of_lt (Nat.lt_of_not_le hlt)]

theorem restoringStep_lt (bit : Bool) (h : rm < d) : restoringStep d bit rm < d :=
  restoringStep_eq_mod bit h ▸ Nat.mod_lt _ (Nat.zero_lt_of_lt h)

/-- The bits from `n` on are those above `n`, and bit `n` behind them. -/
theorem shiftRight_eq_two_mul_add_testBit (x n : Nat) : x >>> n = 2 * (x >>> (n + 1)) + (x.testBit n).toNat := by
  rw [Nat.toNat_testBit, Nat.shiftRight_succ, ← Nat.shiftRight_eq_div_pow]
  exact (Nat.div_add_mod _ 2).symm

/-- The iteration on bit `n` goes from the remainder of the bits above it to that of the bits from `n` on (R98). -/
theorem restoringStep_shiftRight_mod (n : Nat) (hd : 0 < d) :
    restoringStep d (x.testBit n) (x >>> (n + 1) % d) = x >>> n % d := by
  rw [restoringStep_eq_mod _ (Nat.mod_lt _ hd), shiftRight_eq_two_mul_add_testBit x n]
  exact ((Nat.mod_modEq _ d).mul_left 2).add_right _

/-- With the bits below `n` still to come the loop goes on from the remainder of the others (R98). -/
theorem restoringLoop_eq {n : Nat} (hx : x < 2 ^ 64) (hd : 0 < d) (hn : n ≤ 64) :
    restoringLoop x d 64 0 = restoringLoop x d n (x >>> n % d) := by
  induction hn using Nat.decreasingInduction with
  | self => rw [Nat.shiftRight_eq_div_pow, Nat.div_eq_of_lt hx, Nat.zero_mod]
  | of_succ n hn ih => rw [ih, restoringLoop, restoringStep_shiftRight_mod n hd]

/-- After the last bit the partial remainder is the remainder (R97, R98). -/
theorem remRestoring_eq_rem (hx : x < 2 ^ 64) (hd : 0 < d) : remRestoring x d = rem x d :=
  restoringLoop_eq hx hd (Nat.zero_le _)

end

/-- Settles O49, from the loop's invariant, by induction from the highest bit down. -/
theorem restoringDividerIsTheRemainder : Obligations.RestoringDividerIsTheRemainder := by
  intro x d hx hpos hd
  refine ⟨fun n hn => restoringLoop_eq hx hpos hn, fun rm bit hrm => ⟨?_, restoringStep_lt bit hrm⟩,
    remRestoring_eq_rem hx hpos, rfl, Nat.mod_lt _ hpos⟩
  have hbit : bit.toNat ≤ 1 := Bool.toNat_le bit
  omega

end Sys2Proof.Machine
end

section
/-! SUPPORT. The step as the next event (20_memory.md R58), and what the events of each kind are: words, clock edges, resets
and steps of the unit. -/
namespace Sys2Proof.Machine

/-! ### The next event -/

section
variable {s : State} {e : Event} {rest : List Event} {i : Instr}

/-- The step performs the first event of the list, on the state with that event taken away (R58). -/
theorem step_of_inputs_eq_cons (hin : s.inputs = e :: rest) : step s = perform e { s with inputs := rest } := by
  rw [step, takeNext, hin]

theorem perform_of_transaction (h : actionOf e = .transaction i) (s : State) : perform e s = exec i s := by
  rw [perform, h]

theorem perform_of_reset (h : actionOf e = .reset) (s : State) : perform e s = .next (resetBlock s) := by
  rw [perform, h]

theorem perform_of_unit (h : actionOf e = .unit) (s : State) : perform e s = unitStep s := by
  rw [perform, h]

theorem perform_of_refuse {r : Refusal} (h : actionOf e = .refuse r) (s : State) : perform e s = .refused r := by
  rw [perform, h]

/-! ### Words -/

theorem actionOf_word_of_decode {w : Encoded} (h : decode w = .ok i) : actionOf (.word w) = .transaction i := by
  simp only [actionOf, wordAction, h]

/-- A command word that is no command's is still a write of CMD (R73). -/
theorem actionOf_cmdw_of_illegal {v : Word} (h : ∃ e, decodeCommand v = .error e) :
    actionOf (.word (.cmdw v)) = .transaction (.wrCmd v) := by
  obtain ⟨e, he⟩ := h
  have hd : decode (.cmdw v) = .error e := by simp only [decode, he]
  rw [actionOf, wordAction, hd]
  rfl

/-- A command word is a write of CMD, legal or not (R73, R78; log entry 1). -/
theorem perform_cmdw (v : Word) (s : State) : perform (.word (.cmdw v)) s = exec (.wrCmd v) s := by
  cases hd : decodeCommand v with
  | ok c =>
    obtain rfl := decodeCommand_eq_ok_iff.1 hd
    rw [perform_of_transaction (actionOf_word_of_decode (decode_commandWord c)), exec_instrOfCommand]
    rfl
  | error e => exact perform_of_transaction (actionOf_cmdw_of_illegal ⟨e, hd⟩) s

/-- A word of the opcode table that the decoder reads is a word of one of the two formats. -/
theorem decodeTableWord_eq_some {nbits w : Nat} (h : decodeTableWord nbits w = some i) :
    ∃ e, encodedOfTable nbits w = some e ∧ decode e = .ok i := by
  unfold decodeTableWord at h
  cases he : encodedOfTable nbits w with
  | none =>
    rw [he] at h
    cases h
  | some e =>
    cases hd : decode e with
    | ok j =>
      simp only [he, hd] at h
      cases h
      exact ⟨e, rfl, hd⟩
    | error r =>
      simp only [he, hd] at h
      cases h

/-- A word of either format, placed by `withFetchWord`, is the next event (log entry 15). -/
theorem step_withFetchWord {nbits w : Nat} {enc : Encoded} (h : encodedOfTable nbits w = some enc) (s : State) :
    step (s.withFetchWord nbits w) = perform (.word enc) s := by
  have hword : eventOfTable nbits w = .word enc := by rw [eventOfTable, h]
  rw [← hword]
  rfl

end

/-- Settles O6: a word that decodes performs its instruction, as the next input and placed by `withFetchWord`. -/
theorem stepRunsTheDecodedInstruction : Obligations.StepRunsTheDecodedInstruction := by
  refine ⟨fun s e rest i hin hd => ?_, fun s nbits w i h => ?_⟩
  · rw [step_of_inputs_eq_cons hin, perform_of_transaction (actionOf_word_of_decode hd)]
  · obtain ⟨e, he, hd⟩ := decodeTableWord_eq_some h
    rw [step_withFetchWord he, perform_of_transaction (actionOf_word_of_decode hd)]

/-- Settles O7: the step is the unit's, and the unit does nothing while IDLE. -/
theorem silentHostLeavesTheUnitToStep : Obligations.SilentHostLeavesTheUnitToStep := by
  intro s hin
  have hstep := step_of_inputs_eq_nil hin
  exact ⟨hstep, fun hidle => hstep.trans (unitStep_of_idle hidle)⟩

/-- Settles O8: the step performs the first event, by what its action is. -/
theorem stepPerformsTheNextEvent : Obligations.StepPerformsTheNextEvent := by
  intro s e rest hin
  rw [step_of_inputs_eq_cons hin]
  refine ⟨rfl, ?_, ?_, fun nbits w => ?_⟩
  · rintro rfl
    exact perform_of_reset rfl _
  · rintro rfl
    exact perform_of_unit rfl _
  · rintro rfl
    exact perform_of_refuse rfl _

/-- Settles O19: a command's instruction submits its word, and a command word as the next input is the write of it. -/
theorem commandsAreWritesOfTheirWord : Obligations.CommandsAreWritesOfTheirWord := by
  refine ⟨fun s => ⟨exec_instrOfCommand .mulmod s, exec_instrOfCommand .powmod s, exec_instrOfCommand .isqrt s,
    exec_instrOfCommand .isprime s⟩, fun v s rest hin => ?_⟩
  rw [step_of_inputs_eq_cons hin, perform_cmdw]

/-! ### Clock edges -/

/-- Under `rst` an edge is a reset, whatever the strobes (R220). -/
theorem actionOf_edge_of_rst {p : Pins} (hrst : p.rst = true) : actionOf (.edge p) = .reset := if_pos hrst

/-- Settles O27: under `rst` the edge is the reset of the block, as a hard reset is. -/
theorem transactionsUnderResetAreIgnored : Obligations.TransactionsUnderResetAreIgnored := by
  intro p s hrst
  have hreset : perform (.edge p) s = .next (resetBlock s) := perform_of_reset (actionOf_edge_of_rst hrst) s
  exact ⟨hreset.trans (perform_hardReset s).symm, _, hreset, holdsResetValues_resetBlock s⟩

/-- Settles O28: the four settings of the strobes, evaluated. -/
theorem strobesMakeTransactions : Obligations.StrobesMakeTransactions := fun _ _ _ => ⟨rfl, rfl, rfl, rfl⟩

end Sys2Proof.Machine
end

section
/-! SUPPORT. The host's and the unit's sides of the port (45_host_control.md R150 to R161): reads, the acceptance, and a
running operation that neither a micro-step shows nor the host touches. -/
namespace Sys2Proof.Machine

/-! ### Reads -/

/-- A read changes no register that a read returns (R55). -/
theorem regRead_returnRead (r : PortReg) (v : Word) (s : State) : regRead r (returnRead v s) = regRead r s := by
  cases r <;> rfl

/-- Settles O11: a read returns a register and changes none. -/
theorem readsAreIdempotent : Obligations.ReadsAreIdempotent := by
  intro r s t h
  cases (exec_readInstr r s).symm.trans h
  refine ⟨?_, rfl, rfl, rfl⟩
  rw [exec_readInstr, regRead_returnRead]
  rfl

/-- Where the flags and CAUSE stand in what STATUS reads as (R25). -/
theorem statusWord_fields (st : Status) :
    (statusWord st).extractLsb' 4 4 = causeCode st.cause ∧ (statusWord st).getLsbD 1 = st.done ∧
      (statusWord st).getLsbD 2 = st.err := by
  obtain ⟨busy, done, err, cause⟩ := st
  revert busy done err
  cases cause <;> decide

/-- Where the enables stand in what CTRL reads as (R26). -/
theorem ctrlWord_fields (c : Ctrl) : (ctrlWord c).getLsbD 0 = c.ienDone ∧ (ctrlWord c).getLsbD 1 = c.ienErr := by
  obtain ⟨ienDone, ienErr⟩ := c
  revert ienDone ienErr
  decide

/-- Settles O12: the reserved bits have no storage, and each field stands in its own bits. -/
theorem reservedBitsReadZero : Obligations.ReservedBitsReadZero := by
  intro s
  obtain ⟨hcause, hdone, herr⟩ := statusWord_fields s.status
  exact ⟨statusWord_reserved s.status, hcause, statusWord_getLsbD_zero s.status, hdone, herr, ctrlWord_reserved s.ctrl,
    ctrlWord_fields s.ctrl⟩

/-! ### Acceptance and completion -/

/-- Settles O20: a legal word is the word of its command, and the write of it is `accept`. -/
theorem acceptanceTakesTheSnapshot : Obligations.AcceptanceTakesTheSnapshot := by
  intro s herr hbusy
  refine ⟨fun c v hd hm => ?_, fun hm => ⟨?_, ?_⟩, ?_, ?_⟩
  · obtain rfl := decodeCommand_eq_ok_iff.1 hd
    exact exec_wrCmd_commandWord herr hbusy hm
  · exact exec_instrOfCommand_eq_accept (c := .mulmod) herr hbusy fun _ => hm
  · exact exec_instrOfCommand_eq_accept (c := .powmod) herr hbusy fun _ => hm
  · exact exec_instrOfCommand_eq_accept (c := .isqrt) herr hbusy nofun
  · exact exec_instrOfCommand_eq_accept (c := .isprime) herr hbusy nofun

/-- Settles O33: the write of STATUS leaves the position as it is, so the unit's next step is the completion. -/
theorem completionWinsOverAClear : Obligations.CompletionWinsOverAClear := fun s _ w hseq _ =>
  ⟨writeStatus w s, _, rfl, unitStep_ready hseq, rfl, rfl, rfl⟩

/-! ### The running operation -/

/-- Settles O31: a micro-step changes the working registers and the position alone, and keeps the snapshot. -/
theorem microStepsAreInvisible : Obligations.MicroStepsAreInvisible := by
  intro s t h
  obtain ⟨hidle, rfl⟩ | ⟨hrun, w, pos, hsame, rfl⟩ | ⟨v, hseq, rfl⟩ := unitStep_cases h
  · exact .inl ⟨hidle, rfl⟩
  · exact .inr (.inr ⟨hrun, nofun, rfl, rfl, rfl, hsame⟩)
  · exact .inr (.inl ⟨v, hseq, rfl⟩)

/-- While BUSY a submission is dropped or rejected, which leaves the operation alone (R194, R197). -/
theorem submitCommand_of_busy_cases {s : State} (hbusy : s.status.busy = true) (v : Word) :
    submitCommand v s = s ∨ submitCommand v s = reject .cmdWhileBusy s := by
  cases herr : s.status.err with
  | true => exact .inl (submitCommand_of_err herr v)
  | false => exact .inr (submitCommand_of_busy herr hbusy v)

/-- Settles O34: while BUSY a submission starts nothing, and no other instruction but the soft reset writes these fields. -/
theorem hostCannotAlterARunningOperation : Obligations.HostCannotAlterARunningOperation := by
  intro i s t h hbusy hsoft
  cases i with
  | mulmod | powmod | isqrt | isprime | wrCmd =>
    cases h
    obtain hs | hs := submitCommand_of_busy_cases hbusy _
    all_goals
      rw [hs]
      exact ⟨rfl, rfl, hbusy, rfl, rfl⟩
  | wrCtrl v =>
    cases (exec_wrCtrl_of_not_bit2 hsoft s).symm.trans h
    exact ⟨rfl, rfl, hbusy, rfl, rfl⟩
  | _ =>
    cases h
    exact ⟨rfl, rfl, hbusy, rfl, rfl⟩

end Sys2Proof.Machine
end

section
/-! SUPPORT. Everything a step of the machine can do, said once as `StepEffect`, and the rules of 10_state.md that say which
event alone can change a register or a flag (R20 to R27). -/
namespace Sys2Proof.Machine

/-! ### What a step can do -/

/-- What a step from `s` can come to, with its condition and what the next input must then be; `l` is what is left of the
list of events (R58). -/
inductive StepEffect (s : State) : State → Prop
  /-- A read, an ignored write, a dropped submission, an edge without a strobe, or a unit that is not enabled. -/
  | quiet (v : Word) (l : List Event) : StepEffect s { s with rdata := v, inputs := l }
  | micro (w : Working) (pos : MicroPos) (l : List Event) (hrun : s.seq ≠ .idle) :
      StepEffect s { microStep w pos s with inputs := l }
  | completion (v : Word) (l : List Event) (hunit : nextIsUnit s) (hseq : s.seq = .run (.ready v)) :
      StepEffect s { complete v s with inputs := l }
  | reset (l : List Event) (hreset : nextResets s) : StepEffect s { resetBlock s with inputs := l }
  | writeOpa (v : Word) (l : List Event) (hnext : nextInstr (· == .wrOpa v) s) :
      StepEffect s { s with opa := v, inputs := l }
  | writeOpb (v : Word) (l : List Event) (hnext : nextInstr (· == .wrOpb v) s) :
      StepEffect s { s with opb := v, inputs := l }
  | writeMod (v : Word) (l : List Event) (hnext : nextInstr (· == .wrMod v) s) :
      StepEffect s { s with modulus := v, inputs := l }
  | writeStatus (v : Word) (l : List Event) (hnext : nextInstr (· == .wrStatus v) s) :
      StepEffect s { writeStatus v s with inputs := l }
  | writeCtrl (v : Word) (l : List Event) (hnext : nextInstr (· == .wrCtrl v) s) :
      StepEffect s { s with ctrl := { ienDone := v.getLsbD 0, ienErr := v.getLsbD 1 }, inputs := l }
  | reject (i : Instr) (v : Word) (cause : Cause) (l : List Event) (hnext : nextInstr (· == i) s)
      (hi : submittedWord i = some v) (herr : s.status.err = false) : StepEffect s { reject cause s with inputs := l }
  | accept (i : Instr) (v : Word) (c : Command) (l : List Event) (hnext : nextInstr (· == i) s)
      (hi : submittedWord i = some v) (herr : s.status.err = false) (hbusy : s.status.busy = false)
      (hd : decodeCommand v = .ok c) : StepEffect s { accept v s with inputs := l }

/-- The next input's instruction, known by name, has every property that name has. -/
theorem nextInstr_of_beq {p : Instr → Bool} {i : Instr} {s : State} (h : nextInstr (· == i) s) (hp : p i = true) :
    nextInstr p s := by
  obtain ⟨e, rest, j, hin, ha, hj⟩ := h
  obtain rfl : j = i := beq_iff_eq.1 hj
  exact ⟨e, rest, j, hin, ha, hp⟩

section
variable {s t : State} {i : Instr} {v : Word} {e : Event} {l : List Event}

theorem unitStep_effect (hunit : nextIsUnit s) (h : unitStep { s with inputs := l } = .next t) : StepEffect s t := by
  obtain ⟨-, rfl⟩ | ⟨hrun, w, pos, -, rfl⟩ | ⟨v, hseq, rfl⟩ := unitStep_cases h
  · exact .quiet s.rdata l
  · exact .micro w pos l hrun
  · exact .completion v l hunit hseq

theorem submitCommand_effect (hnext : nextInstr (· == i) s) (hi : submittedWord i = some v) (l : List Event) :
    StepEffect s (submitCommand v { s with inputs := l }) := by
  obtain ⟨-, hs⟩ | ⟨herr, -, hs⟩ | ⟨herr, -, -, hs⟩ | ⟨c, herr, -, -, -, -, hs⟩ | ⟨c, herr, hbusy, hd, -, hs⟩ :=
    submitCommand_cases v { s with inputs := l }
  all_goals rw [hs]
  · exact .quiet s.rdata l
  · exact .reject i v _ l hnext hi herr
  · exact .reject i v _ l hnext hi herr
  · exact .reject i v _ l hnext hi herr
  · exact .accept i v c l hnext hi herr hbusy hd

theorem exec_effect (hin : s.inputs = e :: l) (ha : actionOf e = .transaction i)
    (h : exec i { s with inputs := l } = .next t) : StepEffect s t := by
  have hnext : nextInstr (· == i) s := ⟨e, l, i, hin, ha, beq_self_eq_true i⟩
  cases i with
  | mulmod | powmod | isqrt | isprime | wrCmd => cases h; exact submitCommand_effect hnext rfl l
  | wrOpa v => cases h; exact .writeOpa v l hnext
  | wrOpb v => cases h; exact .writeOpb v l hnext
  | wrMod v => cases h; exact .writeMod v l hnext
  | wrStatus v => cases h; exact .writeStatus v l hnext
  | wrCtrl v =>
    cases hv : v.getLsbD 2 with
    | true =>
      cases (exec_wrCtrl_of_bit2 hv _).symm.trans h
      exact .reset l (.inl (nextInstr_of_beq hnext hv))
    | false =>
      cases (exec_wrCtrl_of_not_bit2 hv _).symm.trans h
      exact .writeCtrl v l hnext
  | wrRes v | wrR7 v => cases h; exact .quiet s.rdata l
  | _ => cases h; exact .quiet _ l

/-- Every step that answers a next state has one of the effects (R58). -/
theorem step_effect (h : step s = .next t) : StepEffect s t := by
  obtain ⟨hin, hs⟩ | ⟨e, l, hin, hs⟩ := step_cases s
  · exact unitStep_effect (l := s.inputs) (.inl hin) (hs.symm.trans h)
  · obtain ⟨i, ha, hi⟩ | ⟨ha, rfl⟩ | ⟨ha, hu⟩ | ⟨-, rfl⟩ := perform_cases (hs.symm.trans h)
    · exact exec_effect hin ha hi
    · exact .reset l (.inr ⟨e, l, hin, ha⟩)
    · exact unitStep_effect (.inr ⟨e, l, hin, ha⟩) hu
    · exact .quiet s.rdata l

/-! ### RES, CMD and the sequencer -/

theorem StepEffect.res (h : StepEffect s t) (hres : t.res ≠ s.res) :
    (∃ v, nextIsUnit s ∧ s.seq = .run (.ready v) ∧ t.res = v ∧ t.status.busy = false ∧ t.status.done = true) ∨
    (nextResets s ∧ t.res = 0#64) := by
  cases h with
  | completion v l hunit hseq => exact .inl ⟨v, hunit, hseq, rfl, rfl, rfl⟩
  | reset l hreset => exact .inr ⟨hreset, rfl⟩
  | _ => exact absurd rfl hres

theorem StepEffect.cmd (h : StepEffect s t) (hcmd : t.cmd ≠ s.cmd) :
    (∃ i, nextInstr (· == i) s ∧ submittedWord i = some t.cmd ∧ s.status.err = false ∧ s.status.busy = false ∧
      t.status.busy = true ∧ t.seq = .run .load ∧ ∃ c, decodeCommand t.cmd = .ok c) ∨
    (nextResets s ∧ t.cmd = 0#64) := by
  cases h with
  | accept i v c l hnext hi herr hbusy hd => exact .inl ⟨i, hnext, hi, herr, hbusy, rfl, rfl, c, hd⟩
  | reset l hreset => exact .inr ⟨hreset, rfl⟩
  | _ => exact absurd rfl hcmd

theorem StepEffect.started (h : StepEffect s t) (hidle : s.seq = .idle) (hrun : t.seq ≠ .idle) :
    t.seq = .run .load ∧ t.w.a = s.opa ∧ t.w.b = s.opb ∧ t.w.m = s.modulus ∧
      nextInstr (fun i => submittedWord i == some t.cmd) s := by
  cases h with
  | accept i v c l hnext hi herr hbusy hd =>
    exact ⟨rfl, rfl, rfl, rfl, nextInstr_of_beq hnext (beq_iff_eq.2 hi)⟩
  | micro w pos l hrun' => exact absurd hidle hrun'
  | completion | reset => exact absurd rfl hrun
  | _ => exact absurd hidle hrun

/-! ### The flags -/

/-- No command word is what CMD holds after a reset (R71). -/
theorem commandWord_ne_zero (c : Command) : commandWord c ≠ 0#64 := by
  cases c <;> decide

/-- A write of STATUS that changes DONE has bit 1 set (R156). -/
theorem bit_of_clearFlags_done_ne {st : Status} (h : (clearFlags v st).done ≠ st.done) : v.getLsbD 1 = true :=
  by_contra fun hv => h (if_neg hv)

/-- A write of STATUS that changes ERR has bit 2 set (R156). -/
theorem bit_of_clearFlags_err_ne {st : Status} (h : (clearFlags v st).err ≠ st.err) : v.getLsbD 2 = true :=
  by_contra fun hv => h (if_neg hv)

/-- A write of STATUS that changes CAUSE has bit 2 set (R156). -/
theorem bit_of_clearFlags_cause_ne {st : Status} (h : (clearFlags v st).cause ≠ st.cause) : v.getLsbD 2 = true :=
  by_contra fun hv => h (if_neg hv)

theorem StepEffect.done_set (h : StepEffect s t) (h0 : s.status.done = false) (h1 : t.status.done = true) :
    nextIsUnit s ∧ ∃ v, s.seq = .run (.ready v) := by
  cases h with
  | completion v l hunit hseq => exact ⟨hunit, v, hseq⟩
  | writeStatus v l hnext => simp [h0] at h1
  | reset | accept => cases h1
  | _ => cases h0.symm.trans h1

theorem StepEffect.err_set (h : StepEffect s t) (h0 : s.status.err = false) (h1 : t.status.err = true) :
    nextInstr (fun i => (submittedWord i).isSome) s := by
  cases h with
  | reject i v cause l hnext hi herr => exact nextInstr_of_beq hnext (Option.isSome_of_eq_some hi)
  | writeStatus v l hnext => simp [h0] at h1
  | reset => cases h1
  | _ => cases h0.symm.trans h1

theorem StepEffect.busy_set (h : StepEffect s t) (h0 : s.status.busy = false) (h1 : t.status.busy = true) :
    nextInstr (fun i => (submittedWord i).isSome) s ∧ t.cmd ≠ 0#64 := by
  cases h with
  | accept i v c l hnext hi herr hbusy hd =>
    obtain rfl := decodeCommand_eq_ok_iff.1 hd
    exact ⟨nextInstr_of_beq hnext (Option.isSome_of_eq_some hi), commandWord_ne_zero c⟩
  | completion | reset => cases h1
  | _ => cases h0.symm.trans h1

theorem StepEffect.busy_cleared (h : StepEffect s t) (h1 : s.status.busy = true) (h0 : t.status.busy = false) :
    (nextIsUnit s ∧ ∃ v, s.seq = .run (.ready v) ∧ t.res = v) ∨ nextResets s := by
  cases h with
  | completion v l hunit hseq => exact .inl ⟨hunit, v, hseq, rfl⟩
  | reset l hreset => exact .inr hreset
  | accept => cases h0
  | _ => cases h1.symm.trans h0

theorem StepEffect.done_cleared (h : StepEffect s t) (h1 : s.status.done = true) (h0 : t.status.done = false) :
    (nextInstr (fun i => (submittedWord i).isSome) s ∧ t.status.busy = true) ∨ nextInstr clearsDone s ∨ nextResets s := by
  cases h with
  | accept i v c l hnext hi herr hbusy hd =>
    exact .inl ⟨nextInstr_of_beq hnext (Option.isSome_of_eq_some hi), rfl⟩
  | writeStatus v l hnext =>
    have hv : v.getLsbD 1 = true := bit_of_clearFlags_done_ne fun h => Bool.false_ne_true (h0.symm.trans (h.trans h1))
    exact .inr (.inl (nextInstr_of_beq hnext hv))
  | reset l hreset => exact .inr (.inr hreset)
  | completion => cases h0
  | _ => cases h1.symm.trans h0

theorem StepEffect.err_cleared (h : StepEffect s t) (h1 : s.status.err = true) (h0 : t.status.err = false) :
    nextInstr clearsError s ∨ nextResets s := by
  cases h with
  | writeStatus v l hnext =>
    have hv : v.getLsbD 2 = true := bit_of_clearFlags_err_ne fun h => Bool.false_ne_true (h0.symm.trans (h.trans h1))
    exact .inl (nextInstr_of_beq hnext hv)
  | reset l hreset => exact .inr hreset
  | reject => cases h0
  | _ => cases h1.symm.trans h0

theorem StepEffect.cause (h : StepEffect s t) (hcause : t.status.cause ≠ s.status.cause) :
    (s.status.err = false ∧ t.status.err = true) ∨ nextInstr clearsError s ∨ nextResets s := by
  cases h with
  | reject i v cause l hnext hi herr => exact .inl ⟨herr, rfl⟩
  | writeStatus v l hnext =>
    exact .inr (.inl (nextInstr_of_beq hnext (bit_of_clearFlags_cause_ne hcause)))
  | reset l hreset => exact .inr (.inr hreset)
  | _ => exact absurd rfl hcause

/-! ### The registers of the host -/

theorem StepEffect.opa (h : StepEffect s t) (hopa : t.opa ≠ s.opa) :
    nextInstr (· == .wrOpa t.opa) s ∨ (nextResets s ∧ t.opa = 0#64) := by
  cases h with
  | writeOpa v l hnext => exact .inl hnext
  | reset l hreset => exact .inr ⟨hreset, rfl⟩
  | _ => exact absurd rfl hopa

theorem StepEffect.opb (h : StepEffect s t) (hopb : t.opb ≠ s.opb) :
    nextInstr (· == .wrOpb t.opb) s ∨ (nextResets s ∧ t.opb = 0#64) := by
  cases h with
  | writeOpb v l hnext => exact .inl hnext
  | reset l hreset => exact .inr ⟨hreset, rfl⟩
  | _ => exact absurd rfl hopb

theorem StepEffect.modulus (h : StepEffect s t) (hmod : t.modulus ≠ s.modulus) :
    nextInstr (· == .wrMod t.modulus) s ∨ (nextResets s ∧ t.modulus = 0#64) := by
  cases h with
  | writeMod v l hnext => exact .inl hnext
  | reset l hreset => exact .inr ⟨hreset, rfl⟩
  | _ => exact absurd rfl hmod

theorem StepEffect.ctrl (h : StepEffect s t) (hctrl : t.ctrl ≠ s.ctrl) :
    (∃ v : Word, nextInstr (· == .wrCtrl v) s ∧ t.ctrl = { ienDone := v.getLsbD 0, ienErr := v.getLsbD 1 }) ∨
    (nextResets s ∧ t.ctrl = { ienDone := false, ienErr := false }) := by
  cases h with
  | writeCtrl v l hnext => exact .inl ⟨v, hnext, rfl⟩
  | reset l hreset => exact .inr ⟨hreset, rfl⟩
  | _ => exact absurd rfl hctrl

end

/-! ### The statements about whole steps -/

/-- Settles O35: among the effects of a step only the completion and the reset write RES. -/
theorem resultChangesOnlyAtCompletionOrReset : Obligations.ResultChangesOnlyAtCompletionOrReset :=
  fun _ _ h hres => (step_effect h).res hres

/-- Settles O36: among the effects of a step only the acceptance and the reset write CMD. -/
theorem commandRegisterHoldsTheLastAccepted : Obligations.CommandRegisterHoldsTheLastAccepted :=
  fun _ _ h hcmd => (step_effect h).cmd hcmd

/-- Settles O37: among the effects of a step only the acceptance leaves IDLE. -/
theorem operationsStartOnlyAtAcceptance : Obligations.OperationsStartOnlyAtAcceptance :=
  fun _ _ h hidle hrun => (step_effect h).started hidle hrun

/-- Settles O38: the completion sets DONE, a reject ERR and the acceptance BUSY, and no other effect sets them. -/
theorem flagsAreSetOnlyByTheirEvents : Obligations.FlagsAreSetOnlyByTheirEvents := fun _ _ h =>
  have heff := step_effect h
  ⟨heff.done_set, heff.err_set, heff.busy_set⟩

/-- Settles O39: each flag, and CAUSE, through the effects of a step. -/
theorem flagsAreClearedOnlyByTheirEvents : Obligations.FlagsAreClearedOnlyByTheirEvents := fun _ _ h =>
  have heff := step_effect h
  ⟨heff.busy_cleared, heff.done_cleared, heff.err_cleared, heff.cause⟩

/-- Settles O40: each of the host's registers through the effects of a step. -/
theorem hostRegistersChangeOnlyByTheirWrites : Obligations.HostRegistersChangeOnlyByTheirWrites := fun _ _ h =>
  have heff := step_effect h
  ⟨heff.opa, heff.opb, heff.modulus, heff.ctrl⟩

end Sys2Proof.Machine
end

section
/-! SUPPORT. The unit reads the sequencer and the working registers alone, so its step commutes with any update of the rest
of the block. `unitStep_reject` is the case of a reject; a read transaction is the case that the reads of `WAIT` need. -/
namespace Sys2Proof.Machine

@[simp] theorem mapNext_next (f : State → State) (s : State) : mapNext f (.next s) = .next (f s) := rfl
@[simp] theorem mapNext_fault (f : State → State) (r : Fault) : mapNext f (.fault r) = .fault r := rfl

/-- An update of what the unit does not read, and that neither a micro-step nor a completion undoes. -/
structure UnitBlind (f : State → State) : Prop where
  w : ∀ s, (f s).w = s.w
  seq : ∀ s, (f s).seq = s.seq
  microStep : ∀ w pos s, microStep w pos (f s) = f (microStep w pos s)
  complete : ∀ v s, complete v (f s) = f (complete v s)

section
variable {f : State → State} (hf : UnitBlind f) (s : State)
include hf

theorem UnitBlind.mulmodEnter (use : MulUse) (a b : Word) :
    mulmodEnter use a b (f s) = mapNext f (mulmodEnter use a b s) := by
  simp only [Machine.mulmodEnter, hf.w, hf.microStep, apply_ite (mapNext f), mapNext_next, mapNext_fault]

theorem UnitBlind.mulmodReturn (use : MulUse) : mulmodReturn use (f s) = f (mulmodReturn use s) := by
  cases use <;> simp only [Machine.mulmodReturn, hf.w, hf.microStep]

theorem UnitBlind.isqrtReturn (use : SqrtUse) : isqrtReturn use (f s) = f (isqrtReturn use s) := by
  cases use <;> simp only [Machine.isqrtReturn, hf.w, hf.microStep]

theorem UnitBlind.startOperation : startOperation (f s) = mapNext f (startOperation s) := by
  unfold Machine.startOperation
  rw [hf.w]
  cases commandOfOpcode s.w.opc with
  | none => rfl
  | some c =>
    cases c with
    | mulmod => simp only [mulmodStart, hf.w, hf.mulmodEnter]
    | powmod => simp only [powmodStart, hf.w, hf.microStep, mapNext_next]
    | isqrt => simp only [isqrtStart, isqrtEnter, hf.w, hf.microStep, mapNext_next]
    | isprime => simp only [isprimeStart, isqrtEnter, hf.w, hf.microStep, apply_ite (mapNext f), mapNext_next]

/-- The unit's step after the update is its step before it, updated (R155). -/
theorem UnitBlind.unitStep : unitStep (f s) = mapNext f (unitStep s) := by
  unfold Machine.unitStep
  rw [hf.seq]
  cases s.seq with
  | idle => rfl
  | run pos =>
    cases pos with
    | load => exact hf.startOperation s
    | mulLoop use =>
      simp only [mulmodLoopStep, hf.mulmodReturn, hf.w, hf.microStep, apply_ite (mapNext f), mapNext_next, mapNext_fault]
    | powLoop => simp only [powmodLoopStep, hf.mulmodEnter, hf.w, hf.microStep, apply_ite (mapNext f), mapNext_next]
    | powShift => simp only [powmodShiftStep, hf.mulmodEnter, hf.w, hf.microStep, apply_ite (mapNext f), mapNext_next]
    | sqrtLoop use => simp only [isqrtLoopStep, hf.isqrtReturn, hf.w, hf.microStep, apply_ite (mapNext f), mapNext_next]
    | primeLoop => simp only [isprimeLoopStep, hf.w, hf.microStep, apply_ite (mapNext f), mapNext_next, mapNext_fault]
    | ready v => simp only [hf.complete, mapNext_next]

end

/-- A read transaction is such an update: it writes `reg_rdata` alone (R150). -/
theorem unitBlind_returnRead (v : Word) : UnitBlind (returnRead v) :=
  ⟨fun _ => rfl, fun _ => rfl, fun _ _ _ => rfl, fun _ _ => rfl⟩

end Sys2Proof.Machine
end

section
/-! SUPPORT. The host's script (30_encoding.md R78, R79): what its lines come to, `WAIT` turn by turn, and the calls. -/
namespace Sys2Proof.Machine

/-! ### Script lines -/

theorem actionOf_wr (r : PortReg) (v : Word) : actionOf (wr r v) = .transaction (writeInstr r v) :=
  actionOf_word_of_decode (by rw [encode_writeInstr, decode_portWord_write])

theorem actionOf_rd (r : PortReg) : actionOf (rd r) = .transaction (readInstr r) :=
  actionOf_word_of_decode (by rw [encode_readInstr, decode_portWord_read])

theorem perform_wr (r : PortReg) (v : Word) (s : State) : perform (wr r v) s = exec (writeInstr r v) s :=
  perform_of_transaction (actionOf_wr r v) s

theorem perform_rd (r : PortReg) (s : State) : perform (rd r) s = .next (returnRead (regRead r s) s) :=
  (perform_of_transaction (actionOf_rd r) s).trans (exec_readInstr r s)

theorem map_actionOf_pollAfter (n : Nat) :
    (pollAfter n).map actionOf = List.replicate n Action.unit ++ [.transaction .rdStatus] := by
  rw [pollAfter, List.map_append, List.map_replicate, List.map_singleton, actionOf_rd]
  rfl

/-- An event of a turn of `WAIT` is a step of the unit or the read of STATUS (R79). -/
theorem actionOf_of_mem_pollAfter {n : Nat} {e : Event} (he : e ∈ pollAfter n) :
    actionOf e = .unit ∨ actionOf e = .transaction .rdStatus := by
  have hmem : actionOf e ∈ (pollAfter n).map actionOf := List.mem_map_of_mem he
  rw [map_actionOf_pollAfter, List.mem_append, List.mem_singleton] at hmem
  exact hmem.imp_left List.eq_of_mem_replicate

/-! ### Lists of events -/

section
variable {es fs : List Event} {s t u : State}

/-- A run of two lists passes through a state where the first ends. -/
theorem performAll_append_eq_next :
    performAll (es ++ fs) s = .next u ↔ ∃ t, performAll es s = .next t ∧ performAll fs t = .next u := by
  refine ⟨fun h => ?_, fun ⟨t, ht, hu⟩ => (performAll_append ht).trans hu⟩
  induction es generalizing s with
  | nil => exact ⟨s, rfl, h⟩
  | cons e es ih =>
    rw [List.cons_append, performAll] at h
    cases he : perform e s with
    | next x =>
      rw [he] at h
      obtain ⟨t, ht, hu⟩ := ih h
      exact ⟨t, by rw [performAll, he]; exact ht, hu⟩
    | fault r => simp only [he, reduceCtorEq] at h
    | refused r => simp only [he, reduceCtorEq] at h

theorem performAll_singleton_rd (r : PortReg) (s : State) :
    performAll [rd r] s = .next (returnRead (regRead r s) s) := by
  rw [performAll, perform_rd]
  rfl

/-- A turn of `WAIT` is the unit's steps, and then the read of STATUS (R79). -/
theorem performAll_pollAfter {n : Nat} (h : performAll (.replicate n .unitStep) s = .next u) :
    performAll (pollAfter n) s = .next (returnRead (statusWord u.status) u) :=
  (performAll_append h).trans (performAll_singleton_rd .status u)

/-- What a turn of `WAIT` leaves on `reg_rdata` is STATUS as it stands. -/
theorem rdata_of_performAll_pollAfter {n : Nat} (h : performAll (pollAfter n) s = .next t) :
    t.rdata = statusWord t.status := by
  obtain ⟨u, -, hu⟩ := performAll_append_eq_next.1 h
  cases (performAll_singleton_rd .status u).symm.trans hu
  rfl

/-! ### The unit alone, split in two runs, while idle, and after a read -/

theorem performAll_replicate_unitStep_split {k j : Nat} (h : performAll (.replicate (k + j) .unitStep) s = .next t) :
    ∃ u, performAll (.replicate k .unitStep) s = .next u ∧ performAll (.replicate j .unitStep) u = .next t := by
  rw [List.replicate_add] at h
  exact performAll_append_eq_next.1 h

/-- While IDLE the unit's steps are none (log entry 3). -/
theorem performAll_replicate_unitStep_of_idle (hidle : s.seq = .idle) (n : Nat) :
    performAll (.replicate n .unitStep) s = .next s := by
  induction n with
  | zero => rfl
  | succ n ih => rw [performAll_replicate_unitStep_succ (unitStep_of_idle hidle), ih]

/-- A read before the unit's steps is as if it came after them (R155). -/
theorem performAll_replicate_unitStep_returnRead {n : Nat} (v : Word)
    (h : performAll (.replicate n .unitStep) s = .next t) :
    performAll (.replicate n .unitStep) (returnRead v s) = .next (returnRead v t) := by
  induction n generalizing s with
  | zero => cases h; rfl
  | succ n ih =>
    obtain ⟨u, hstep, hrest⟩ := performAll_replicate_unitStep_succ_eq_next h
    have hread : unitStep (returnRead v s) = .next (returnRead v u) := by
      rw [(unitBlind_returnRead v).unitStep, hstep, mapNext_next]
    exact (performAll_replicate_unitStep_succ hread n).trans (ih hrest)

end

/-! ### `WAIT`, turn by turn -/

section
variable {n : Nat} {more : List Nat} {s t : State}

theorem wait_of_bit_eq_false (h : performAll (pollAfter n) s = .next t) (hbit : t.rdata.getLsbD 0 = false) :
    wait (n :: more) s = some (pollAfter n) := by
  simp only [wait, h, hbit, Bool.false_eq_true, if_false]

theorem wait_of_bit_eq_true (h : performAll (pollAfter n) s = .next t) (hbit : t.rdata.getLsbD 0 = true) :
    wait (n :: more) s = (wait more t).map (fun es => pollAfter n ++ es) := by
  simp only [wait, h, hbit, if_true]

/-- `WaitsExactly` by its first turn: the last one, or one that showed BUSY. -/
theorem waitsExactly_cons_iff {turns : List Nat} :
    WaitsExactly (n :: turns) s ↔ ∃ t, performAll (pollAfter n) s = .next t ∧
      ((turns = [] ∧ t.rdata.getLsbD 0 = false) ∨ (t.rdata.getLsbD 0 = true ∧ WaitsExactly turns t)) := by
  constructor
  · rintro ⟨-, ⟨u, hrun, hend⟩, hmid⟩
    obtain ⟨t, ht, hrest⟩ := performAll_append_eq_next.1 hrun
    refine ⟨t, ht, ?_⟩
    by_cases hnil : turns = []
    · subst hnil
      cases hrest
      exact .inl ⟨rfl, hend⟩
    have hlen : 0 < turns.length := List.length_pos_of_ne_nil hnil
    refine .inr ⟨?_, hnil, ⟨u, hrest, hend⟩, fun j hj hlt => ?_⟩
    · obtain ⟨x, hx, hbit⟩ := hmid 1 le_rfl (Nat.succ_lt_succ hlen)
      have hx' : performAll (pollAfter n) s = .next x := by simpa using hx
      cases ht.symm.trans hx'
      exact hbit
    · obtain ⟨x, hx, hbit⟩ := hmid (j + 1) (Nat.le_add_left 1 j) (Nat.succ_lt_succ hlt)
      exact ⟨x, (performAll_append ht).symm.trans hx, hbit⟩
  · rintro ⟨t, ht, ⟨rfl, hend⟩ | ⟨hbit, -, ⟨u, hrest, hend⟩, hmid⟩⟩
    · exact ⟨List.cons_ne_nil _ _, ⟨t, (performAll_append ht).trans rfl, hend⟩,
        fun j hj hlt => absurd hlt (Nat.not_lt_of_le hj)⟩
    · refine ⟨List.cons_ne_nil _ _, ⟨u, (performAll_append ht).trans hrest, hend⟩, fun j hj hlt => ?_⟩
      obtain ⟨j, rfl⟩ := Nat.exists_eq_add_one.2 hj
      cases j with
      | zero => exact ⟨t, (performAll_append ht).trans rfl, hbit⟩
      | succ j =>
        obtain ⟨x, hx, hbit'⟩ := hmid (j + 1) (Nat.le_add_left 1 j) (Nat.lt_of_succ_lt_succ hlt)
        exact ⟨x, (performAll_append ht).trans hx, hbit'⟩

/-- `WAIT` expands to exactly its turns up to the first read with bit 0 = 0 (R79). -/
theorem wait_eq_some_iff {polls : List Nat} {es : List Event} :
    wait polls s = some es ↔
      ∃ turns rest, polls = turns ++ rest ∧ WaitsExactly turns s ∧ es = turns.flatMap pollAfter := by
  induction polls generalizing s es with
  | nil =>
    refine ⟨nofun, ?_⟩
    rintro ⟨turns, rest, hsplit, ⟨hne, -⟩, -⟩
    exact absurd (List.append_eq_nil_iff.1 hsplit.symm).1 hne
  | cons n more ih =>
    constructor
    · intro h
      obtain ⟨n', more', t, hl, ht, ⟨hbit, rfl⟩ | ⟨hbit, fs, hfs, rfl⟩⟩ := wait_cases h
      all_goals cases hl
      · exact ⟨[n], more, rfl, waitsExactly_cons_iff.2 ⟨t, ht, .inl ⟨rfl, hbit⟩⟩, by simp⟩
      · obtain ⟨turns, rest, rfl, hturns, rfl⟩ := ih.1 hfs
        exact ⟨n :: turns, rest, rfl, waitsExactly_cons_iff.2 ⟨t, ht, .inr ⟨hbit, hturns⟩⟩, rfl⟩
    · rintro ⟨turns, rest, hsplit, hturns, rfl⟩
      cases turns with
      | nil => exact absurd rfl hturns.1
      | cons m turns =>
        cases hsplit
        obtain ⟨t, ht, ⟨rfl, hbit⟩ | ⟨hbit, hrest⟩⟩ := waitsExactly_cons_iff.1 hturns
        · simpa using wait_of_bit_eq_false ht hbit
        · rw [wait_of_bit_eq_true ht hbit, ih.2 ⟨turns, rest, rfl, hrest, rfl⟩]
          rfl

/-- `WAIT` ends once its turns allow the unit the steps it needs to become idle (R79, R155). -/
theorem exists_wait_eq_some {polls : List Nat} (hrun : performAll (.replicate n .unitStep) s = .next t)
    (hidle : t.seq = .idle) (hbusy : t.status.busy = false) (hne : polls ≠ []) (hn : n ≤ polls.sum) :
    ∃ es, wait polls s = some es := by
  induction polls generalizing n s t with
  | nil => exact absurd rfl hne
  | cons k more ih =>
    rw [List.sum_cons] at hn
    obtain hle | hlt := Nat.lt_or_ge k n |>.symm
    · have hk : performAll (.replicate k .unitStep) s = .next t := by
        rw [← Nat.add_sub_cancel' hle, List.replicate_add, performAll_append hrun,
          performAll_replicate_unitStep_of_idle hidle]
      have hbit : (statusWord t.status).getLsbD 0 = false := (statusWord_getLsbD_zero _).trans hbusy
      exact ⟨_, wait_of_bit_eq_false (performAll_pollAfter hk) hbit⟩
    · rw [← Nat.add_sub_cancel' hlt.le] at hrun
      obtain ⟨u, hk, hrest⟩ := performAll_replicate_unitStep_split hrun
      have hturn := performAll_pollAfter hk
      cases hbit : (statusWord u.status).getLsbD 0 with
      | false => exact ⟨_, wait_of_bit_eq_false hturn hbit⟩
      | true =>
        have hmore : more ≠ [] := by
          rintro rfl
          simp only [List.sum_nil] at hn
          omega
        obtain ⟨fs, hfs⟩ := ih (performAll_replicate_unitStep_returnRead (statusWord u.status) hrest) hidle hbusy hmore
          (by omega)
        exact ⟨_, by rw [wait_of_bit_eq_true hturn hbit, hfs]; rfl⟩

end

/-! ### What a `WAIT` leaves -/

section
variable {polls : List Nat} {ws : List Event} {s u : State}

theorem actionOf_of_mem_wait {e : Event} (h : wait polls s = some ws) (he : e ∈ ws) :
    actionOf e = .unit ∨ actionOf e = .transaction .rdStatus := by
  obtain ⟨turns, rest, -, -, rfl⟩ := wait_eq_some_iff.1 h
  obtain ⟨n, -, hn⟩ := List.mem_flatMap.1 he
  exact actionOf_of_mem_pollAfter hn

/-- `WAIT` leaves the operand registers alone (R162). -/
theorem wait_keepsOperands (h : wait polls s = some ws) (hrun : performAll ws s = .next u) :
    u.opa = s.opa ∧ u.opb = s.opb ∧ u.modulus = s.modulus := by
  have hquiet : ∀ e ∈ ws, quietEvent e = true := fun e he => by
    obtain ha | ha := actionOf_of_mem_wait h he
    · rw [quietEvent, ha]
    · rw [quietEvent, ha]
      rfl
  have hwrites : ∀ e ∈ ws, ∀ r v, actionOf e ≠ .transaction (writeInstr r v) := fun e he r v => by
    obtain ha | ha := actionOf_of_mem_wait h he
    all_goals
      rw [ha]
      cases r <;> exact nofun
  obtain ⟨hopa, hopb, hmod⟩ := performAll_keepsOperands hquiet hrun
  exact ⟨hopa fun e he => hwrites e he .opa, hopb fun e he => hwrites e he .opb, hmod fun e he => hwrites e he .mod⟩

/-- `WAIT` ends with what its last read of STATUS returned on `reg_rdata`. -/
theorem wait_rdata (h : wait polls s = some ws) (hrun : performAll ws s = .next u) : u.rdata = statusWord u.status := by
  induction polls generalizing s ws with
  | nil => cases h
  | cons n more ih =>
    obtain ⟨n', more', t, hl, ht, ⟨-, rfl⟩ | ⟨-, fs, hfs, rfl⟩⟩ := wait_cases h
    all_goals cases hl
    · exact rdata_of_performAll_pollAfter hrun
    · exact ih hfs ((performAll_append ht).symm.trans hrun)

end

/-! ### The calls -/

/-- A call whose writes leave `a`, `b` and `m` in the operand registers expands as R79 says. -/
theorem callExpandsTo_of_writes {writes : List Instr} {before : List Event} {a b m : Word} {s t : State}
    (hmap : before.map actionOf = writes.map .transaction) (hrun : performAll before s = .next t) (ha : t.opa = a)
    (hb : t.opb = b) (hm : t.modulus = m) (polls : List Nat) :
    CallExpandsTo writes a b m polls s (call before polls s) := by
  refine ⟨before, t, hmap, hrun, ?_⟩
  rw [call_cases hrun]
  cases hw : wait polls t with
  | none => exact .inl ⟨rfl, rfl⟩
  | some ws =>
    obtain ⟨u, hu, hbit⟩ := wait_reads_not_busy hw
    obtain ⟨hopa, hopb, hmod⟩ := wait_keepsOperands hw hu
    have hbusy : u.status.busy = false := by rw [← statusWord_getLsbD_zero, ← wait_rdata hw hu, hbit]
    refine .inr ⟨ws, rd .res, u, rfl, rfl, actionOf_rd .res, hu, hbit, hbusy, hopa.trans ha, hopb.trans hb,
      hmod.trans hm, ?_⟩
    rw [List.append_assoc, performAll_append hrun, performAll_append hu]
    exact performAll_singleton_rd .res u

theorem submitCommand_operands (v : Word) (s : State) :
    (submitCommand v s).opa = s.opa ∧ (submitCommand v s).opb = s.opb ∧ (submitCommand v s).modulus = s.modulus := by
  obtain ⟨-, hs⟩ | ⟨-, -, hs⟩ | ⟨-, -, -, hs⟩ | ⟨c, -, -, -, -, -, hs⟩ | ⟨c, -, -, -, -, hs⟩ := submitCommand_cases v s
  all_goals
    rw [hs]
    exact ⟨rfl, rfl, rfl⟩

/-- The calls that write all three operands. -/
theorem callExpandsTo_three (c : Command) (a b m : Word) (polls : List Nat) (s : State) :
    CallExpandsTo [.wrOpa a, .wrOpb b, .wrMod m, .wrCmd (commandWord c)] a b m polls s
      (call [wr .opa a, wr .opb b, wr .mod m, wrCommand c] polls s) := by
  have hrun : performAll [wr .opa a, wr .opb b, wr .mod m, wrCommand c] s =
      .next (submitCommand (commandWord c) { s with opa := a, opb := b, modulus := m }) := by
    simp only [performAll, wrCommand, perform_wr]
    rfl
  obtain ⟨hopa, hopb, hmod⟩ := submitCommand_operands (commandWord c) { s with opa := a, opb := b, modulus := m }
  refine callExpandsTo_of_writes ?_ hrun hopa hopb hmod polls
  simp only [List.map_cons, List.map_nil, wrCommand, actionOf_wr, writeInstr]

/-- The calls that write OPA alone. -/
theorem callExpandsTo_one (c : Command) (a : Word) (polls : List Nat) (s : State) :
    CallExpandsTo [.wrOpa a, .wrCmd (commandWord c)] a s.opb s.modulus polls s
      (call [wr .opa a, wrCommand c] polls s) := by
  have hrun : performAll [wr .opa a, wrCommand c] s = .next (submitCommand (commandWord c) { s with opa := a }) := by
    simp only [performAll, wrCommand, perform_wr]
    rfl
  obtain ⟨hopa, hopb, hmod⟩ := submitCommand_operands (commandWord c) { s with opa := a }
  refine callExpandsTo_of_writes ?_ hrun hopa hopb hmod polls
  simp only [List.map_cons, List.map_nil, wrCommand, actionOf_wr, writeInstr]

/-- Settles O60: the lines by their words, `WAIT` by induction over its turns, the calls by their writes and `WAIT`. -/
theorem pseudoInstructionsExpand : Obligations.PseudoInstructionsExpand :=
  ⟨actionOf_wr .status _, actionOf_wr .status _, actionOf_wr .ctrl _, map_actionOf_pollAfter,
    fun _ _ _ => wait_eq_some_iff,
    fun _ _ _ _ hrun hidle hbusy hne hn => exists_wait_eq_some hrun hidle hbusy hne hn,
    fun a b m polls s => ⟨callExpandsTo_three .mulmod a b m polls s, callExpandsTo_three .powmod a b m polls s,
      callExpandsTo_one .isqrt a polls s, callExpandsTo_one .isprime a polls s⟩⟩

end Sys2Proof.Machine
end
